-- ==== Sys2Proof/Word.lean ====
section
/-! DEFINITION. The fixed widths of the engine (spec/00_scope.md rules R6, R7) and the text type of the
hex boundary. Nothing here computes: every helper that could be wrong lives under `Sys2Proof/Machine/`. -/

namespace Sys2Proof

/-- A 64-bit block, key, IV, register value or command word (R6, R7). -/
abbrev Word := BitVec 64

/-- A 32-bit half-block, L or R (R6, R33). -/
abbrev Half := BitVec 32

/-- A 28-bit key-schedule half, C or D (R6, R33). -/
abbrev KeyHalf := BitVec 28

/-- A 48-bit round key (R6). -/
abbrev RoundKey := BitVec 48

/-- A 3-bit register index (R7, R50). -/
abbrev RegIndex := BitVec 3

/-- The 68-bit packed form of one host transaction, `WE ‖ IDX ‖ DATA` (R70). -/
abbrev PortWord := BitVec 68

/-- One byte of a platform bus (R56). -/
abbrev Byte := BitVec 8

/-- A character string of the host: the operands and results of the boundary operations (R100, R171)
and the source text of a host program (R78). -/
abbrev Text := List Char

end Sys2Proof
end

