-- ==== Sys2Proof/Config.lean ====
section
/-! DEFINITION. What a platform fixes and the spec leaves open: the three open parameters of R7 and the
state at power-on (R234). Each is an opaque constant with no body, so no proof can see a value of it. -/

namespace Sys2Proof.Config

/-- `BASE_ADDRESS` (R7, R56, R60): the byte address of the register block of engine `i` of the platform.
OPEN; log entry 6. -/
opaque baseAddress (i : Nat) : Nat

/-- `N_INSTANCES - 1` (R7, R216): the engines of the platform beyond the first. OPEN; log entry 7. -/
opaque moreInstances : Nat

/-- `LATENCY - 1` (R7, R242, R243) of a transaction: how many clock cycles beyond the first the port is
held. It may depend on the packed transaction and on KEY, DIN and IV. OPEN; log entry 8. -/
opaque extraCycles (transaction : PortWord) (key din iv : Word) : Nat

/-- KEY at power-on, before the first reset (R234): any value. Log entry 9. -/
opaque powerOnKey : Word
/-- DIN at power-on, before the first reset (R234): any value. Log entry 9. -/
opaque powerOnDin : Word
/-- IV at power-on, before the first reset (R234): any value. Log entry 9. -/
opaque powerOnIv : Word
/-- DOUT at power-on, before the first reset (R234): any value. Log entry 9. -/
opaque powerOnDout : Word
/-- VALID at power-on, before the first reset (R234): any value. Log entry 9. -/
opaque powerOnValid : Bool
/-- ERR at power-on, before the first reset (R234): any value. Log entry 9. -/
opaque powerOnErr : BitVec 4

/-- `N_INSTANCES` (R216): at least 1. -/
def nInstances : Nat := moreInstances + 1

end Sys2Proof.Config
end

