-- ==== Sys2Proof/Machine/State.lean ====
section
/-! DEFINITION. The state of the machine as plain data: the engine's six registers (spec/10_state.md R20),
the host's side of the port (spec/20_memory.md R52), and the state after reset (R231). -/

namespace Sys2Proof.Machine

/-- The architectural state of the engine, R20's tuple `(KEY, DIN, IV, DOUT, VALID, ERR)`. CMD and the
reserved slots 6 and 7 have no storage (R25, R29). -/
structure Engine where
  /-- KEY, index 0, the 64-bit key as supplied, parity positions included (R21). -/
  key : Word
  /-- DIN, index 1, the input block (R22). -/
  din : Word
  /-- IV, index 2, the CBC initialization vector (R23). -/
  iv : Word
  /-- DOUT, index 3, the result block of the last legal command (R24). -/
  dout : Word
  /-- STATUS.VALID: the most recent command since reset was legal (R27). -/
  valid : Bool
  /-- STATUS.ERR: the 4-bit error code of the most recent command (R28). -/
  err : BitVec 4
deriving DecidableEq, Repr

/-- What the host drives on the input signals of the port while one transaction is offered (R52). `clk` is
left out: the model has no time (R242). -/
structure PortSignals where
  /-- `rst`, active high (R230). -/
  rst : Bool
  /-- `req`: a transaction is offered. -/
  req : Bool
  /-- `we`: 1 is a write, 0 a read. -/
  we : Bool
  /-- `idx`: the register index. -/
  idx : RegIndex
  /-- `wdata`: the write data. -/
  wdata : Word
deriving DecidableEq, Repr

/-- One access of a byte-addressed platform bus to the engine's register block (R56). -/
structure BusAccess where
  /-- A write (true) or a read (false). -/
  we : Bool
  /-- The byte address of the first byte. -/
  addr : Nat
  /-- The width of the access in bytes. -/
  width : Nat
  /-- The bytes written, the one at the lowest address first; not looked at for a read. -/
  bytes : List Byte
deriving DecidableEq, Repr

/-- One thing the outside does to the engine: the port driven directly, or an access on a platform bus. -/
inductive HostAction where
  | port (p : PortSignals)
  | bus (a : BusAccess)
deriving DecidableEq, Repr

/-- What the engine answered on `ack` and `rdata` in the last step (R52): `rdata` exists only where the spec
says it is valid, with `ack = 1` and `we = 0`. -/
inductive PortAnswer where
  /-- `ack = 0`: no transaction completed (nothing offered, or `rst` is 1: R230). -/
  | noAck
  /-- `ack = 1` for a write; `rdata` is not valid. -/
  | ackWrite
  /-- `ack = 1` for a read, with the value on `rdata`. -/
  | ackRead (rdata : Word)
deriving DecidableEq, Repr

/-- The whole machine: the engine, what the host has still to do to it in issue order (R59, R62; log entry 1),
and the engine's last answer (log entry 2). -/
structure State where
  engine : Engine
  pending : List HostAction
  answer : PortAnswer
deriving DecidableEq, Repr

/-- The engine never stops with a fault: "The engine raises no other error" (R205), an illegal command is
reported in STATUS and the machine goes on (R208), and every index is legal (R53). So there is no
constructor: nothing raises one, and no claim can rest on one (safe). -/
inductive Fault where
deriving DecidableEq, Repr

/-- Why the model has no transition. -/
inductive Refusal where
  /-- Raised by `exec` for an instruction that has no meaning yet; no instruction is left so. Safe: nothing can
  be proved of a refused step. -/
  | notModelled (mnemonic : String)
  /-- Raised by `step` for a platform bus access that is not 8 bytes wide at `BASE_ADDRESS + 8*idx`: "What such
  an access does is the platform's own choice, and a model refuses it" (R57, R58). Safe: nothing can be proved
  of a refused step. -/
  | busAccessOutsideSpec (a : BusAccess)
deriving DecidableEq, Repr

/-- R231: reset sets KEY, DIN, IV and DOUT to 0, VALID to 0 and ERR to 0. -/
def Engine.reset : Engine := ⟨0, 0, 0, 0, false, 0⟩

/-- The machine right after reset (R231, R232): the engine's registers at zero, idle, nothing offered. -/
def State.reset : State := ⟨Engine.reset, [], .noAck⟩

/-- The engine at power-on, before the first reset: every register holds any value (R234). -/
def Engine.powerOn : Engine :=
  ⟨Config.powerOnKey, Config.powerOnDin, Config.powerOnIv, Config.powerOnDout,
    Config.powerOnValid, Config.powerOnErr⟩

end Sys2Proof.Machine
end

