-- ==== Sys2Proof/Machine/Bus.lean ====
section
/-! DEFINITION. The register block on a byte-addressed platform bus (spec/20_memory.md R56 to R58): the byte
order of a slot, and which bus access is a transaction of the port. -/

namespace Sys2Proof.Machine

/-- R56: the byte at offset `k` (0 to 7) of a slot is register bits `[63-8k : 56-8k]`, big-endian. -/
def slotByte (v : Word) (k : Nat) : Byte := v.extractLsb' (56 - 8 * k) 8

/-- R56: the eight bytes of a slot, the one at the lowest address first. -/
def slotBytes (v : Word) : List Byte := (List.range 8).map (slotByte v)

/-- R56: the register value eight bytes spell, the byte at the lowest address first. -/
def wordOfBytes (bs : List Byte) : Word := BitVec.ofNat 64 (bs.foldl (fun acc b => 256 * acc + b.toNat) 0)

/-- R58: "On a byte-addressed platform the only well-formed access is 8 bytes wide at
`BASE_ADDRESS + 8*idx`", for one of the 8 slots; a write carries its 8 bytes. -/
def BusAccess.wellFormed (base : Nat) (a : BusAccess) : Bool :=
  decide (base ≤ a.addr) && decide ((a.addr - base) % 8 = 0) && decide ((a.addr - base) / 8 < 8) &&
  decide (a.width = 8) && (!a.we || decide (a.bytes.length = 8))

/-- R56: a well-formed access is the transaction of its slot. -/
def BusAccess.signals (base : Nat) (a : BusAccess) : PortSignals where
  rst := false
  req := true
  we := a.we
  idx := BitVec.ofNat 3 ((a.addr - base) / 8)
  wdata := if a.we then wordOfBytes a.bytes else 0

/-- What a host action puts on the port's signals: every other bus access is refused (R57). -/
def HostAction.signals (base : Nat) : HostAction → Except Refusal PortSignals
  | .port p => .ok p
  | .bus a => if a.wellFormed base then .ok (a.signals base) else .error (.busAccessOutsideSpec a)

end Sys2Proof.Machine
end

