-- ==== Sys2Proof/Syntax.lean ====
section
/-! DEFINITION. The instructions: one constructor per row of spec/opcode_table.json (rule R73).
The operands are the fields of format PORT (R70) that the row leaves variable. The bits a row ignores
are kept as data, so that no bit of a transaction is lost between the word and the instruction. -/

namespace Sys2Proof

inductive Instr where
  /-- RD: one read of slot `idx`; `ignored` is the DATA field of a read, which R70 says is ignored. -/
  | rd (idx : RegIndex) (ignored : Word)
  /-- WR.KEY: write slot 0 (R54). -/
  | wrKey (v : Word)
  /-- WR.DIN: write slot 1 (R54). -/
  | wrDin (v : Word)
  /-- WR.IV: write slot 2 (R54). -/
  | wrIv (v : Word)
  /-- WR.IGN.DOUT: ignored write of slot 3 (R54, R75). -/
  | wrIgnDout (ignored : Word)
  /-- WR.IGN.STATUS: ignored write of slot 5 (R54, R75). -/
  | wrIgnStatus (ignored : Word)
  /-- WR.IGN.R6: ignored write of reserved slot 6 (R54, R75). -/
  | wrIgnR6 (ignored : Word)
  /-- WR.IGN.R7: ignored write of reserved slot 7 (R54, R75). -/
  | wrIgnR7 (ignored : Word)
  /-- ENC.ECB: command word 0x0 (R166). -/
  | encEcb
  /-- DEC.ECB: command word 0x1 (R167). -/
  | decEcb
  /-- ENC.CBC: command word 0x2 (R168). -/
  | encCbc
  /-- DEC.CBC: command word 0x3 (R169). -/
  | decCbc
  /-- CMD.ILLEGAL: a command word `w` with a reserved bit set (R74, R203). -/
  | cmdIllegal (w : Word)
deriving DecidableEq, Repr

end Sys2Proof
end

