-- ==== Sys2Proof/WellFormed.lean ====
section
/-! DEFINITION. When an instruction is one that a transaction can carry: the only side condition of the
opcode map (R73) is CMD.ILLEGAL's `DATA[63:2] ≠ 0`. -/

namespace Sys2Proof

/-- R73: CMD.ILLEGAL stands for a word with `DATA[63:2] ≠ 0`; the words 0x0 to 0x3 belong to the four
commands. Every other instruction is well formed with every operand. -/
def Instr.wellFormed : Instr → Bool
  | .cmdIllegal w => decide (w.extractLsb' 2 62 ≠ 0)
  | .rd _ _ => true
  | .wrKey _ => true
  | .wrDin _ => true
  | .wrIv _ => true
  | .wrIgnDout _ => true
  | .wrIgnStatus _ => true
  | .wrIgnR6 _ => true
  | .wrIgnR7 _ => true
  | .encEcb => true
  | .decEcb => true
  | .encCbc => true
  | .decCbc => true

/-- The well-formedness check as a proposition, for statements. -/
abbrev Instr.WellFormed (i : Instr) : Prop := i.wellFormed = true

end Sys2Proof
end

