-- ==== Sys2Proof/Decode.lean ====
section
/-! DEFINITION. The decoder and the encoder of format PORT and format CMD (spec/30_encoding.md R70 to R73).
Decoding is total on every 68-bit word (R71); a number that is no 68-bit word is rejected by name. -/

namespace Sys2Proof

/-! ### The fields of format PORT (R70) and format CMD (R72) -/

/-- PORT bit 67, WE: 1 is a write, 0 a read (R70). -/
def portWE (w : PortWord) : Bool := w.getLsbD 67
/-- PORT bits 66:64, IDX (R70). -/
def portIdx (w : PortWord) : RegIndex := w.extractLsb' 64 3
/-- PORT bits 63:0, DATA (R70). -/
def portData (w : PortWord) : Word := w.extractLsb' 0 64

/-- The packed form `WE ‖ IDX ‖ DATA` (R70). -/
def packPort (we : Bool) (idx : RegIndex) (data : Word) : PortWord := BitVec.ofBool we ++ idx ++ data

/-- CMD bit 0, DIR: 0 encrypts, 1 decrypts (R72). -/
def cmdDir (w : Word) : Bool := w.getLsbD 0
/-- CMD bit 1, MODE: 0 is ECB, 1 is CBC (R72). -/
def cmdMode (w : Word) : Bool := w.getLsbD 1
/-- CMD bits 63:2, reserved, must be zero (R72). -/
def cmdReserved (w : Word) : BitVec 62 := w.extractLsb' 2 62

/-! ### The decoder -/

/-- R73: the four command rows match their exact words first, CMD.ILLEGAL takes every other word. -/
def decodeCommand (data : Word) : Instr :=
  if data = 0 then .encEcb
  else if data = 1 then .decEcb
  else if data = 2 then .encCbc
  else if data = 3 then .decCbc
  else .cmdIllegal data

/-- R71, `WE = 1`: the index selects the row, and index 4 decodes DATA as a command word. -/
def decodeWrite (idx : RegIndex) (data : Word) : Instr :=
  if idx = 0 then .wrKey data
  else if idx = 1 then .wrDin data
  else if idx = 2 then .wrIv data
  else if idx = 3 then .wrIgnDout data
  else if idx = 4 then decodeCommand data
  else if idx = 5 then .wrIgnStatus data
  else if idx = 6 then .wrIgnR6 data
  else .wrIgnR7 data

/-- R71: every 68-bit PORT value decodes to exactly one row of the opcode map. -/
def decodePort (w : PortWord) : Instr :=
  if portWE w then decodeWrite (portIdx w) (portData w) else .rd (portIdx w) (portData w)

/-- Why a number is no transaction. -/
inductive DecodeError where
  /-- R77: every transaction is 68 bits, and this number has a bit above bit 67. -/
  | widerThanPortWord
deriving DecidableEq, Repr

/-- The decoder over any number: R77 fixes the length at 68 bits. -/
def decodeNat (w : Nat) : Except DecodeError Instr :=
  if w < 2 ^ 68 then .ok (decodePort (BitVec.ofNat 68 w)) else .error .widerThanPortWord

/-- The host's view of the decoder. A PORT word is one word of 68 bits, so the table's numbering is the
word's own (bit 0 is DATA[0], bit 67 is WE), and `nbits` gives nothing more (R77). -/
def decodeTableWord (_nbits w : Nat) : Option Instr :=
  match decodeNat w with
  | .ok i => some i
  | .error _ => none

/-! ### The encoder -/

/-- R73: the PORT word of an instruction, from the WE, IDX and DATA columns of the opcode map. -/
def encode : Instr → PortWord
  | .rd idx ignored => packPort false idx ignored
  | .wrKey v => packPort true 0 v
  | .wrDin v => packPort true 1 v
  | .wrIv v => packPort true 2 v
  | .wrIgnDout ignored => packPort true 3 ignored
  | .wrIgnStatus ignored => packPort true 5 ignored
  | .wrIgnR6 ignored => packPort true 6 ignored
  | .wrIgnR7 ignored => packPort true 7 ignored
  | .encEcb => packPort true 4 0
  | .decEcb => packPort true 4 1
  | .encCbc => packPort true 4 2
  | .decCbc => packPort true 4 3
  | .cmdIllegal w => packPort true 4 w

/-! ### The opcode map as data (spec/opcode_table.json, R73) -/

/-- One row of the opcode table: a word `w` matches when `w &&& mask = pattern`. -/
structure OpcodeRow where
  mnemonic : String
  pattern : PortWord
  mask : PortWord
deriving DecidableEq, Repr

/-- Does the word match the row's pattern under its mask? -/
def OpcodeRow.accepts (r : OpcodeRow) (w : PortWord) : Bool := w &&& r.mask == r.pattern

/-- The 13 rows in the table's order, the lowest priority last (R73). -/
def opcodeTable : List OpcodeRow :=
  [ ⟨"RD",            0x00000000000000000, 0x80000000000000000⟩,
    ⟨"WR.KEY",        0x80000000000000000, 0xF0000000000000000⟩,
    ⟨"WR.DIN",        0x90000000000000000, 0xF0000000000000000⟩,
    ⟨"WR.IV",         0xA0000000000000000, 0xF0000000000000000⟩,
    ⟨"WR.IGN.DOUT",   0xB0000000000000000, 0xF0000000000000000⟩,
    ⟨"WR.IGN.STATUS", 0xD0000000000000000, 0xF0000000000000000⟩,
    ⟨"WR.IGN.R6",     0xE0000000000000000, 0xF0000000000000000⟩,
    ⟨"WR.IGN.R7",     0xF0000000000000000, 0xF0000000000000000⟩ ] ++
  [ ⟨"ENC.ECB",       0xC0000000000000000, 0xFFFFFFFFFFFFFFFFF⟩,
    ⟨"DEC.ECB",       0xC0000000000000001, 0xFFFFFFFFFFFFFFFFF⟩,
    ⟨"ENC.CBC",       0xC0000000000000002, 0xFFFFFFFFFFFFFFFFF⟩,
    ⟨"DEC.CBC",       0xC0000000000000003, 0xFFFFFFFFFFFFFFFFF⟩,
    ⟨"CMD.ILLEGAL",   0xC0000000000000000, 0xF0000000000000000⟩ ]

/-- R73's precedence: the first matching row of the table. -/
def matchRow (w : PortWord) : Option OpcodeRow := opcodeTable.find? (·.accepts w)

/-- The row's name as spec/opcode_table.json spells it. -/
def Instr.mnemonic : Instr → String
  | .rd _ _ => "RD"
  | .wrKey _ => "WR.KEY"
  | .wrDin _ => "WR.DIN"
  | .wrIv _ => "WR.IV"
  | .wrIgnDout _ => "WR.IGN.DOUT"
  | .wrIgnStatus _ => "WR.IGN.STATUS"
  | .wrIgnR6 _ => "WR.IGN.R6"
  | .wrIgnR7 _ => "WR.IGN.R7"
  | .encEcb => "ENC.ECB"
  | .decEcb => "DEC.ECB"
  | .encCbc => "ENC.CBC"
  | .decCbc => "DEC.CBC"
  | .cmdIllegal _ => "CMD.ILLEGAL"

end Sys2Proof
end

