-- ==== Sys2Proof/Machine/Flags.lean ====
section
/-! DEFINITION. STATUS and the error codes (R26 to R28, R200). VALID and ERR are the engine's only flags
(R32); only a command or reset writes them. -/

namespace Sys2Proof.Machine

/-- The error names of R200 that are ever produced; codes 4 to 15 are reserved. -/
inductive ErrorCode where
  | none
  | invalidEncoding
  | invalidLength
  | illegalCommand
deriving DecidableEq, Repr

/-- R200: the 4-bit code of an error. -/
def ErrorCode.code : ErrorCode → BitVec 4
  | .none => 0
  | .invalidEncoding => 1
  | .invalidLength => 2
  | .illegalCommand => 3

/-- R26, R53: a read of STATUS, `zext_64(ERR ‖ 0b000 ‖ VALID)`. -/
def Engine.statusWord (e : Engine) : Word := (e.err ++ 0#3 ++ BitVec.ofBool e.valid).setWidth 64

/-- R165: `VALID <- 1 ; ERR <- 0`, after a legal command. -/
def Engine.flagLegal (e : Engine) : Engine := { e with valid := true, err := ErrorCode.none.code }

/-- R208: `VALID <- 0 ; ERR <- 3`, after an illegal command. -/
def Engine.flagIllegal (e : Engine) : Engine :=
  { e with valid := false, err := ErrorCode.illegalCommand.code }

end Sys2Proof.Machine
end

