-- ==== Sys2Proof/Machine/Primitives.lean ====
section
/-! DEFINITION. The primitive layer (spec/40_primitives.md R103 to R121): permutation, the four permutations
of the datapath, and the S-box substitution. All are pure functions of fixed-width bit vectors; XOR is
`BitVec`'s own, at equal widths, so the length mismatch of R110 cannot be written. -/

namespace Sys2Proof.Machine

/-- DES position `p` (1-based from the most significant end) of an `n`-bit value: `v[n-p]` (R9). -/
def pos {n : Nat} (v : BitVec n) (p : Nat) : Bool := v.getLsbD (n - p)

/-- The number a bit string spells, most significant bit first (R9). -/
def bitsValue (bits : List Bool) : Nat := bits.foldl (fun acc b => 2 * acc + b.toNat) 0

/-- R103: `perm(T, v, n)`, output position `i` is input position `T[i]`. -/
def perm {n m : Nat} (T : Vector Nat m) (v : BitVec n) : BitVec m :=
  BitVec.ofNat m (bitsValue (T.toList.map (pos v)))

/-- The initial permutation IP (R104). -/
def permIP (v : Word) : Word := perm tableIP v
/-- The final permutation FP (R105). -/
def permFP (v : Word) : Word := perm tableFP v
/-- The expansion E (R107). -/
def expandE (r : Half) : BitVec 48 := perm tableE r
/-- The round-output permutation P (R108). -/
def permP (x : Half) : Half := perm tableP x

/-- R111: the value of one S-box for a 6-bit group. The outer bits are the row, the first the high bit; the
inner four bits are the column. -/
def sboxLookup (S : SBox) (g : BitVec 6) : BitVec 4 :=
  let row : BitVec 2 := g.extractLsb' 5 1 ++ g.extractLsb' 0 1
  let col : BitVec 4 := g.extractLsb' 1 4
  BitVec.ofNat 4 S[row.toFin][col.toFin]

/-- R111: group `i` (1 to 8) of the 48-bit S-box input, `x[53-6i : 48-6i]`. -/
def sboxGroup (x : BitVec 48) (i : Nat) : BitVec 6 := x.extractLsb' (48 - 6 * i) 6

/-- R111: `SBOX(x)`, group `i` through table `S_i`, the eight nibbles left to right. -/
def sboxAll (x : BitVec 48) : Half :=
  sboxLookup sbox1 (sboxGroup x 1) ++ sboxLookup sbox2 (sboxGroup x 2) ++
  sboxLookup sbox3 (sboxGroup x 3) ++ sboxLookup sbox4 (sboxGroup x 4) ++
  sboxLookup sbox5 (sboxGroup x 5) ++ sboxLookup sbox6 (sboxGroup x 6) ++
  sboxLookup sbox7 (sboxGroup x 7) ++ sboxLookup sbox8 (sboxGroup x 8)

end Sys2Proof.Machine
end

