-- ==== Sys2Proof/Machine/KeySchedule.lean ====
section
/-! DEFINITION. The key schedule (spec/41_key_schedule.md R130 to R138). -/

namespace Sys2Proof.Machine

/-- R130: PC-1 of the key, 56 bits `CD0`. -/
def pc1 (key : Word) : BitVec 56 := perm tablePC1 key
/-- R130: `C0 = CD0[55:28]`. -/
def keyC0 (key : Word) : KeyHalf := (pc1 key).extractLsb' 28 28
/-- R130: `D0 = CD0[27:0]`. -/
def keyD0 (key : Word) : KeyHalf := (pc1 key).extractLsb' 0 28

/-- R132: `rotl28(x, s)`; the first `s` bits leave at the left and re-enter at the right. -/
def rotl28 (x : KeyHalf) (s : Nat) : KeyHalf := (x <<< s) ||| (x >>> (28 - s))

/-- R134: PC-2 of `C_n ‖ D_n`, the round key. -/
def pc2 (cd : BitVec 56) : RoundKey := perm tablePC2 cd

/-- R133: the halves after each rotation, one pair per entry of a shift schedule, starting from `(c, d)`. -/
def keyHalvesFrom : List Nat → KeyHalf → KeyHalf → List (KeyHalf × KeyHalf)
  | [], _, _ => []
  | s :: rest, c, d => (rotl28 c s, rotl28 d s) :: keyHalvesFrom rest (rotl28 c s) (rotl28 d s)

/-- R133: `[(C1, D1), ..., (C16, D16)]` of a key. -/
def keyHalves (key : Word) : List (KeyHalf × KeyHalf) :=
  keyHalvesFrom shiftSchedule (keyC0 key) (keyD0 key)

/-- R135: `KS(key) = [K1, ..., K16]`, round 1 first. -/
def keySchedule (key : Word) : List RoundKey := (keyHalves key).map fun cd => pc2 (cd.1 ++ cd.2)

end Sys2Proof.Machine
end

