-- ==== Sys2Proof/Machine/RoundCore.lean ====
section
/-! DEFINITION. The round function and the block cipher core (spec/42_round_core.md R140 to R148). -/

namespace Sys2Proof.Machine

/-- R140: `F(R, K) = perm(P, SBOX(E(R) xor K))`. -/
def roundF (r : Half) (k : RoundKey) : Half := permP (sboxAll (expandE r ^^^ k))

/-- The two half-blocks of the Feistel loop (R33, R143). -/
structure Halves where
  l : Half
  r : Half
deriving DecidableEq, Repr

/-- R143: one round, `newR <- L xor F(R, K); L <- R; R <- newR`. -/
def feistelRound (h : Halves) (k : RoundKey) : Halves := ⟨h.r, h.l ^^^ roundF h.r k⟩

/-- R143: the rounds over a list of round keys, in order. -/
def feistel (ks : List RoundKey) (h : Halves) : Halves := ks.foldl feistelRound h

/-- R142: the key order, reversed to decrypt (`dir = 1`). -/
def roundKeys (key : Word) (dir : Bool) : List RoundKey :=
  if dir then (keySchedule key).reverse else keySchedule key

/-- R143: `L <- x[63:32] ; R <- x[31:0]`. -/
def splitHalves (x : Word) : Halves := ⟨x.extractLsb' 32 32, x.extractLsb' 0 32⟩

/-- R143, R144: the preoutput `R ‖ L`, the halves swapped back. -/
def preoutput (h : Halves) : Word := h.r ++ h.l

/-- R143: `Core(block, key, dir)`. -/
def desCore (block key : Word) (dir : Bool) : Word :=
  permFP (preoutput (feistel (roundKeys key dir) (splitHalves (permIP block))))

end Sys2Proof.Machine
end

