-- ==== Sys2Proof/Machine/Modes.lean ====
section
/-! DEFINITION. The mode functions on one block (spec/43_modes_commands.md R160 to R164). -/

namespace Sys2Proof.Machine

/-- R160: ECB encryption, `Core(b, k, 0)`. -/
def ecbE (b k : Word) : Word := desCore b k false
/-- R161: ECB decryption, `Core(b, k, 1)`. -/
def ecbD (b k : Word) : Word := desCore b k true
/-- R162: CBC encryption, `Core(b xor v, k, 0)`. -/
def cbcE (b k v : Word) : Word := desCore (b ^^^ v) k false
/-- R163: CBC decryption, `Core(b, k, 1) xor v`. -/
def cbcD (b k v : Word) : Word := desCore b k true ^^^ v

end Sys2Proof.Machine
end

