-- ==== Sys2Proof/Machine/Operands.lean ====
section
/-! DEFINITION. The operands of a command: the implicit registers it reads (R76), sampled once when the CMD
write is accepted (R165, R237). -/

namespace Sys2Proof.Machine

/-- R165: `k <- KEY ; b <- DIN ; v <- IV`. -/
structure Operands where
  k : Word
  b : Word
  v : Word
deriving DecidableEq, Repr

/-- R237: a command sees KEY, DIN and IV as they stand when its CMD write is accepted. -/
def Engine.sample (e : Engine) : Operands := ⟨e.key, e.din, e.iv⟩

end Sys2Proof.Machine
end

