-- ==== Sys2Proof/Machine/Ops.lean ====
section
/-! DEFINITION. The named operations over the engine's registers, at the level of the spec's own pseudocode:
`PortRead` (R53), `PortWrite` (R54), `ExecuteCommand` (R165), reporting an illegal command (R208), reset
(R231), and how a transaction is acknowledged (R52). -/

namespace Sys2Proof.Machine

/-! ### Taking the one exception

R208 is the whole of it: no vector, no saved program counter, no mode or mask change, since the engine has
none of them. There is no return from it (R210): the next CMD write or reset overwrites ERR. -/

/-- R208: `raise IllegalCommand(w)`: VALID is cleared, ERR is 3, KEY, DIN, IV and DOUT are unchanged, and the
word is not recorded (R203). -/
def Engine.raiseIllegalCommand (e : Engine) : Engine := e.flagIllegal

/-! ### Commands -/

/-- R165: `DOUT <- r ; VALID <- 1 ; ERR <- 0`. -/
def Engine.completeCommand (r : Word) (e : Engine) : Engine := { e with dout := r }.flagLegal

/-- R165: the result of the command word with OP = `MODE ‖ DIR`, on the sampled operands. -/
def commandResult (mode dir : Bool) (o : Operands) : Word :=
  match mode, dir with
  | false, false => ecbE o.b o.k
  | false, true => ecbD o.b o.k
  | true, false => cbcE o.b o.k o.v
  | true, true => cbcD o.b o.k o.v

/-- R165: `ExecuteCommand(w)`, one atomic transition. -/
def Engine.executeCommand (w : Word) (e : Engine) : Engine :=
  if cmdReserved w ≠ 0 then e.raiseIllegalCommand
  else e.completeCommand (commandResult (cmdMode w) (cmdDir w) e.sample)

/-! ### The register port -/

/-- R53: `PortRead(idx)`. CMD and the reserved indices read 0. -/
def Engine.portRead (idx : RegIndex) (e : Engine) : Word :=
  if idx = 0 then e.key
  else if idx = 1 then e.din
  else if idx = 2 then e.iv
  else if idx = 3 then e.dout
  else if idx = 5 then e.statusWord
  else 0

/-- R54: `PortWrite(idx, v)`. Indices 3, 5, 6 and 7 ignore the write. -/
def Engine.portWrite (idx : RegIndex) (v : Word) (e : Engine) : Engine :=
  if idx = 0 then { e with key := v }
  else if idx = 1 then { e with din := v }
  else if idx = 2 then { e with iv := v }
  else if idx = 4 then e.executeCommand v
  else e

/-! ### Acknowledging a transaction (R52) -/

/-- A write completes: the engine's new registers, and `ack` with no read data. -/
def State.ackWrite (e : Engine) (s : State) : State := { s with engine := e, answer := .ackWrite }

/-- A read completes: `ack` with the value on `rdata`; the engine's registers are unchanged (R53). -/
def State.ackRead (v : Word) (s : State) : State := { s with answer := .ackRead v }

/-- `rst` is 1: the engine's registers go to their reset values, and no `ack` is given (R230, R231). -/
def State.applyReset (s : State) : State := { s with engine := Engine.reset, answer := .noAck }

/-- Nothing is offered: no register changes and no `ack` is given (R52). -/
def State.idle (s : State) : State := { s with answer := .noAck }

end Sys2Proof.Machine
end

