-- ==== Sys2Proof/Machine/Commands.lean ====
section
/-! DEFINITION. The meanings of the commands ENC.ECB, DEC.ECB, ENC.CBC, DEC.CBC
(spec/43_modes_commands.md R166 to R169) and CMD.ILLEGAL (spec/60_exceptions.md R203). -/

namespace Sys2Proof.Machine

/-- ENC.ECB (R166): `DOUT <- Core(DIN, KEY, 0); VALID <- 1; ERR <- 0`. -/
def execEncEcb (s : State) : Host.Outcome State Fault Refusal :=
  .next (s.ackWrite (s.engine.completeCommand (ecbE s.engine.sample.b s.engine.sample.k)))

/-- DEC.ECB (R167): `DOUT <- Core(DIN, KEY, 1); VALID <- 1; ERR <- 0`. -/
def execDecEcb (s : State) : Host.Outcome State Fault Refusal :=
  .next (s.ackWrite (s.engine.completeCommand (ecbD s.engine.sample.b s.engine.sample.k)))

/-- ENC.CBC (R168): `DOUT <- Core(DIN xor IV, KEY, 0); VALID <- 1; ERR <- 0`. -/
def execEncCbc (s : State) : Host.Outcome State Fault Refusal :=
  .next (s.ackWrite (s.engine.completeCommand
    (cbcE s.engine.sample.b s.engine.sample.k s.engine.sample.v)))

/-- DEC.CBC (R169): `DOUT <- Core(DIN, KEY, 1) xor IV; VALID <- 1; ERR <- 0`. -/
def execDecCbc (s : State) : Host.Outcome State Fault Refusal :=
  .next (s.ackWrite (s.engine.completeCommand
    (cbcD s.engine.sample.b s.engine.sample.k s.engine.sample.v)))

/-- CMD.ILLEGAL (R203, R208): `VALID <- 0; ERR <- 3`; the write completes and the word is not recorded. -/
def execCmdIllegal (_w : Word) (s : State) : Host.Outcome State Fault Refusal :=
  .next (s.ackWrite s.engine.raiseIllegalCommand)

end Sys2Proof.Machine
end

