-- ==== Sys2Proof/Machine/PortAccess.lean ====
section
/-! DEFINITION. The meanings of the register-port instructions RD, WR.KEY, WR.DIN, WR.IV and the four WR.IGN
rows (spec/20_memory.md R53, R54; spec/30_encoding.md R75). -/

namespace Sys2Proof.Machine

/-- RD (R53): `rdata` is `PortRead(idx)`; a read changes no register, whatever DATA holds. -/
def execRd (idx : RegIndex) (_ignored : Word) (s : State) : Host.Outcome State Fault Refusal :=
  .next (s.ackRead (s.engine.portRead idx))

/-- WR.KEY (R54, R21): `KEY <- v`, and nothing else changes. -/
def execWrKey (v : Word) (s : State) : Host.Outcome State Fault Refusal :=
  .next (s.ackWrite { s.engine with key := v })

/-- WR.DIN (R54, R22): `DIN <- v`, and nothing else changes. -/
def execWrDin (v : Word) (s : State) : Host.Outcome State Fault Refusal :=
  .next (s.ackWrite { s.engine with din := v })

/-- WR.IV (R54, R23): `IV <- v`, and nothing else changes. -/
def execWrIv (v : Word) (s : State) : Host.Outcome State Fault Refusal :=
  .next (s.ackWrite { s.engine with iv := v })

/-- WR.IGN.DOUT (R54, R75): DOUT is read only, the write is ignored and completes. -/
def execWrIgnDout (_ignored : Word) (s : State) : Host.Outcome State Fault Refusal :=
  .next (s.ackWrite s.engine)

/-- WR.IGN.STATUS (R54, R75): STATUS is read only, the write is ignored and completes. -/
def execWrIgnStatus (_ignored : Word) (s : State) : Host.Outcome State Fault Refusal :=
  .next (s.ackWrite s.engine)

/-- WR.IGN.R6 (R54, R29): reserved, the write is ignored and completes. -/
def execWrIgnR6 (_ignored : Word) (s : State) : Host.Outcome State Fault Refusal :=
  .next (s.ackWrite s.engine)

/-- WR.IGN.R7 (R54, R29): reserved, the write is ignored and completes. -/
def execWrIgnR7 (_ignored : Word) (s : State) : Host.Outcome State Fault Refusal :=
  .next (s.ackWrite s.engine)

end Sys2Proof.Machine
end

