-- ==== Sys2Proof/Machine/Dispatch.lean ====
section
/-! DEFINITION. One arm per instruction, each one direct call of its meaning. -/

namespace Sys2Proof.Machine

def exec (i : Instr) (s : State) : Host.Outcome State Fault Refusal :=
  match i with
  | .rd idx ignored => Sys2Proof.Machine.execRd idx ignored s
  | .wrKey v => Sys2Proof.Machine.execWrKey v s
  | .wrDin v => Sys2Proof.Machine.execWrDin v s
  | .wrIv v => Sys2Proof.Machine.execWrIv v s
  | .wrIgnDout ignored => Sys2Proof.Machine.execWrIgnDout ignored s
  | .wrIgnStatus ignored => Sys2Proof.Machine.execWrIgnStatus ignored s
  | .wrIgnR6 ignored => Sys2Proof.Machine.execWrIgnR6 ignored s
  | .wrIgnR7 ignored => Sys2Proof.Machine.execWrIgnR7 ignored s
  | .encEcb => Sys2Proof.Machine.execEncEcb s
  | .decEcb => Sys2Proof.Machine.execDecEcb s
  | .encCbc => Sys2Proof.Machine.execEncCbc s
  | .decCbc => Sys2Proof.Machine.execDecCbc s
  | .cmdIllegal w => Sys2Proof.Machine.execCmdIllegal w s

end Sys2Proof.Machine
end

