-- ==== Sys2Proof/Machine/Port.lean ====
section
/-! DEFINITION. How the port's signals drive the engine (spec/20_memory.md R52, R59, R62 and
spec/70_reset_and_hazards.md R230, R233): reset first, then an offered transaction, else nothing. -/

namespace Sys2Proof.Machine

/-- R70: the packed form of the transaction on the signals. -/
def PortSignals.word (p : PortSignals) : PortWord := packPort p.we p.idx p.wdata

/-- The signals of the transaction a PORT word packs. -/
def PortSignals.ofWord (w : PortWord) : PortSignals := ⟨false, true, portWE w, portIdx w, portData w⟩

/-- The signals of one reset action (R78, R230). -/
def PortSignals.resetPulse : PortSignals := ⟨true, false, false, 0, 0⟩

/-- One step of the engine under the port's signals. While `rst` is 1 no transaction is accepted, so one
offered at the same time has no effect (R230, R233). Otherwise an offered transaction is one whole atomic
transition (R236, log entry 3), and without one nothing happens. -/
def portStep (p : PortSignals) (s : State) : Host.Outcome State Fault Refusal :=
  if p.rst then .next s.applyReset
  else if p.req then exec (decodePort p.word) s
  else .next s.idle

/-- One step of an engine whose register block stands at `base`: the first pending host action, in issue order
(R59, R62), or nothing where none is pending (R232: the engine is idle). -/
def stepAt (base : Nat) (s : State) : Host.Outcome State Fault Refusal :=
  match s.pending with
  | [] => .next s.idle
  | a :: rest =>
    match a.signals base with
    | .ok p => portStep p { s with pending := rest }
    | .error r => .refused r

/-- Offer the transaction whose 68 bits are `w` as the next one. A number that is no PORT word (R77) can be on
no signals: nothing is offered. -/
def State.offerNat (s : State) (w : Nat) : State :=
  if w < 2 ^ 68 then { s with pending := .port (.ofWord (BitVec.ofNat 68 w)) :: s.pending } else s

end Sys2Proof.Machine
end

