-- ==== Sys2Proof/Machine/Step.lean ====
section
/-! DEFINITION. One step of the machine, and how a single instruction is put before it. -/

namespace Sys2Proof.Machine

/-- One step: engine 0 of the platform takes its next host action. -/
def step (s : State) : Host.Outcome State Fault Refusal := stepAt (Config.baseAddress 0) s

/-- `s` with the transaction `w` offered as the next host action, so that the very next step runs it. The
engine fetches nothing (R31, R64): a program is the host's list of pending actions, loaded from outside
(log entry 4). -/
def State.withFetchWord (s : State) (_nbits w : Nat) : State := s.offerNat w

end Sys2Proof.Machine
end

