-- ==== Sys2Proof/Machine/Codec.lean ====
section
/-! DEFINITION. The bit/hex codec of the boundary (spec/40_primitives.md R100 to R102). -/

namespace Sys2Proof.Machine

/-- R100: `digit(c)`, 0-9, A-F and a-f only. -/
def hexDigit (c : Char) : Option Nat :=
  if 48 ≤ c.toNat ∧ c.toNat ≤ 57 then some (c.toNat - 48)
  else if 65 ≤ c.toNat ∧ c.toNat ≤ 70 then some (c.toNat - 55)
  else if 97 ≤ c.toNat ∧ c.toNat ≤ 102 then some (c.toNat - 87)
  else none

/-- R100: the digits of a string, or nothing where some character is no hex digit. -/
def hexDigits : Text → Option (List Nat)
  | [] => some []
  | c :: cs =>
    match hexDigit c, hexDigits cs with
    | some d, some ds => some (d :: ds)
    | _, _ => none

/-- The number a digit string spells, most significant digit first (R10). -/
def digitsValue (ds : List Nat) : Nat := ds.foldl (fun acc d => 16 * acc + d) 0

/-- R100: `HexDecode_n(s)`. The character check comes before the length check (R206); nothing is padded or
truncated. -/
def hexDecode (n : Nat) (s : Text) : Except ErrorCode (BitVec n) :=
  match hexDigits s with
  | none => .error .invalidEncoding
  | some ds => if s.length ≠ n / 4 then .error .invalidLength else .ok (BitVec.ofNat n (digitsValue ds))

/-- R101: `hexchar`, upper case. -/
def hexChar (d : BitVec 4) : Char :=
  if d.toNat < 10 then Char.ofNat (48 + d.toNat) else Char.ofNat (55 + d.toNat)

/-- R101: `HexEncode_n(v)`, exactly `n/4` digits, digit `j` from `v[n-4j+3 : n-4j]`. -/
def hexEncode (n : Nat) (v : BitVec n) : Text :=
  (List.range (n / 4)).map fun j => hexChar (v.extractLsb' (n - 4 * (j + 1)) 4)

/-- R70: the 17 hex digits of a packed transaction. -/
def portText (w : PortWord) : Text := hexEncode 68 w

/-- An upper-case hex string: no character is one of a-f (R102). -/
def upperCase (s : Text) : Bool := s.all fun c => !(decide (97 ≤ c.toNat) && decide (c.toNat ≤ 102))

end Sys2Proof.Machine
end

