-- ==== Sys2Proof/Machine/Assembler.lean ====
section
/-! DEFINITION. The host program syntax and its assembly into host actions (spec/30_encoding.md R78, R79).
Where blanks may stand the spec does not say: log entry 12. -/

namespace Sys2Proof.Machine

/-- One statement of a host program (R78, R79). -/
inductive Stmt where
  | wr (reg : RegIndex) (imm : Word)
  | rd (reg : RegIndex)
  | reset
  | encEcb
  | decEcb
  | encCbc
  | decCbc
deriving DecidableEq, Repr

/-- Why a program is not assembled; nothing is emitted then. -/
inductive AsmError where
  /-- R78: an immediate of more than 16 digits. -/
  | immediateTooLong
  /-- The line is no `stmt` of R78's grammar. -/
  | badStatement
  /-- R78: `program := { line NEWLINE }`, and the last line has no NEWLINE. -/
  | missingNewline
deriving DecidableEq, Repr

/-- R79: the pseudo-instructions are writes of CMD; every other statement is itself. -/
def Stmt.expand : Stmt → Stmt
  | .encEcb => .wr 4 0
  | .decEcb => .wr 4 1
  | .encCbc => .wr 4 2
  | .decCbc => .wr 4 3
  | .wr reg imm => .wr reg imm
  | .rd reg => .rd reg
  | .reset => .reset

/-- R70, R71, R78: the host action of an expanded statement; a read is assembled with DATA = 0. -/
def Stmt.emit : Stmt → HostAction
  | .wr reg imm => .port (.ofWord (packPort true reg imm))
  | .rd reg => .port (.ofWord (packPort false reg 0))
  | .reset => .port .resetPulse
  | .encEcb => .port (.ofWord (packPort true 4 0))
  | .decEcb => .port (.ofWord (packPort true 4 1))
  | .encCbc => .port (.ofWord (packPort true 4 2))
  | .decCbc => .port (.ofWord (packPort true 4 3))

/-- R78: the spellings of a register. -/
def regNames : List (Text × RegIndex) :=
  [ (['K', 'E', 'Y'], 0), (['D', 'I', 'N'], 1), (['I', 'V'], 2), (['D', 'O', 'U', 'T'], 3),
    (['C', 'M', 'D'], 4), (['S', 'T', 'A', 'T', 'U', 'S'], 5) ] ++
  [ (['#', '0'], 0), (['#', '1'], 1), (['#', '2'], 2), (['#', '3'], 3),
    (['#', '4'], 4), (['#', '5'], 5), (['#', '6'], 6), (['#', '7'], 7) ]

/-- R78, R79: the statements that are one word. -/
def wordStmts : List (Text × Stmt) :=
  [ (['R', 'E', 'S', 'E', 'T'], .reset),
    (['E', 'N', 'C', '.', 'E', 'C', 'B'], .encEcb), (['D', 'E', 'C', '.', 'E', 'C', 'B'], .decEcb),
    (['E', 'N', 'C', '.', 'C', 'B', 'C'], .encCbc), (['D', 'E', 'C', '.', 'C', 'B', 'C'], .decCbc) ]

/-- R78: `imm := '0x' hexdigit { hexdigit }`, 1 to 16 digits, zero-extended to 64 bits. -/
def parseImm (t : Text) : Except AsmError Word :=
  match t with
  | '0' :: 'x' :: d :: rest =>
    match hexDigits (d :: rest) with
    | none => .error .badStatement
    | some ds => if ds.length ≤ 16 then .ok (BitVec.ofNat 64 (digitsValue ds)) else .error .immediateTooLong
  | _ => .error .badStatement

/-- A finished token, or nothing where no character was read. -/
def flushToken (cur : Text) : List Text := if cur.isEmpty then [] else [cur.reverse]

/-- The tokens of a line: blanks separate them, a comma is one by itself (log entry 12). -/
def tokens : Text → Text → List Text
  | [], cur => flushToken cur
  | c :: cs, cur =>
    if c = ' ' ∨ c = '\t' then flushToken cur ++ tokens cs []
    else if c = ',' then flushToken cur ++ [','] :: tokens cs []
    else tokens cs (c :: cur)

/-- R78: the statement of a line's tokens, if it has one. -/
def parseStmt (ts : List Text) : Except AsmError (Option Stmt) :=
  match ts with
  | [] => .ok none
  | [t] =>
    match wordStmts.lookup t with
    | some st => .ok (some st)
    | none => .error .badStatement
  | [t, r] =>
    match regNames.lookup r with
    | some reg => if t = ['R', 'D'] then .ok (some (.rd reg)) else .error .badStatement
    | none => .error .badStatement
  | [t, r, c, i] =>
    match regNames.lookup r with
    | some reg =>
      if t = ['W', 'R'] ∧ c = [','] then
        match parseImm i with
        | .ok v => .ok (some (.wr reg v))
        | .error x => .error x
      else .error .badStatement
    | none => .error .badStatement
  | _ => .error .badStatement

/-- R78: `line := [ stmt ] [ ';' comment ]`. -/
def parseLine (line : Text) : Except AsmError (Option Stmt) :=
  parseStmt (tokens (line.takeWhile (· ≠ ';')) [])

/-- R78: `program := { line NEWLINE }`, cut into lines. -/
def splitLines : Text → Text → Except AsmError (List Text)
  | [], cur => if cur.isEmpty then .ok [] else .error .missingNewline
  | c :: cs, cur =>
    if c = '\n' then
      match splitLines cs [] with
      | .ok rest => .ok (cur.reverse :: rest)
      | .error x => .error x
    else splitLines cs (c :: cur)

/-- The statements of a program's lines, in order; the first bad line is the program's error. -/
def parseLines : List Text → Except AsmError (List Stmt)
  | [] => .ok []
  | line :: rest =>
    match parseLine line, parseLines rest with
    | .error x, _ => .error x
    | .ok _, .error x => .error x
    | .ok none, .ok sts => .ok sts
    | .ok (some st), .ok sts => .ok (st :: sts)

/-- R78, R79: assemble a host program into the host actions it issues, pseudo-instructions expanded. -/
def assemble (program : Text) : Except AsmError (List HostAction) :=
  match splitLines program [] with
  | .error x => .error x
  | .ok lines =>
    match parseLines lines with
    | .error x => .error x
    | .ok sts => .ok (sts.map fun st => st.expand.emit)

end Sys2Proof.Machine
end

