-- ==== Sys2Proof/Machine/Boundary.lean ====
section
/-! DEFINITION. The four boundary operations on hex strings (spec/43_modes_commands.md R171 to R175) and the
errors they report (spec/60_exceptions.md R200 to R207). They are the host's steps over one engine: every
operand is decoded before any transaction. -/

namespace Sys2Proof.Machine

/-- R201: which operand of a boundary operation failed. -/
inductive OperandName where
  | data
  | key
  | iv
deriving DecidableEq, Repr

/-- R207: `err(code, operand)`. -/
structure BoundaryError where
  code : ErrorCode
  operand : OperandName
deriving DecidableEq, Repr

/-- What a boundary operation returns, beside the engine it leaves. -/
structure BoundaryOutcome where
  result : Except BoundaryError Text
  engine : Engine
deriving DecidableEq, Repr

/-- `raise E(info)` at the boundary (R200, R207): the typed error, and the engine untouched. -/
def raiseBoundary (code : ErrorCode) (operand : OperandName) (e : Engine) : BoundaryOutcome :=
  ⟨.error ⟨code, operand⟩, e⟩

/-- Decode one operand, or stop the operation with its typed error (R171, R207). -/
def withOperand (name : OperandName) (s : Text) (e : Engine) (go : Word → BoundaryOutcome) : BoundaryOutcome :=
  match hexDecode 64 s with
  | .error code => raiseBoundary code name e
  | .ok v => go v

/-- R171: after the port writes, read DOUT and encode it. -/
def returnDout (e : Engine) : BoundaryOutcome := ⟨.ok (hexEncode 64 (e.portRead 3)), e⟩

/-- The ECB boundary operations (R171, R172), with the command word each one writes. -/
def boundaryECB (w : Word) (data key : Text) (e : Engine) : BoundaryOutcome :=
  withOperand .data data e fun b =>
  withOperand .key key e fun k =>
  returnDout (((e.portWrite 0 k).portWrite 1 b).portWrite 4 w)

/-- The CBC boundary operations (R173, R174), with the command word each one writes. -/
def boundaryCBC (w : Word) (data key iv : Text) (e : Engine) : BoundaryOutcome :=
  withOperand .data data e fun b =>
  withOperand .key key e fun k =>
  withOperand .iv iv e fun v =>
  returnDout ((((e.portWrite 0 k).portWrite 1 b).portWrite 2 v).portWrite 4 w)

/-- R171: `encryptECB(plaintextHex, keyHex)`. -/
def encryptECB (p k : Text) (e : Engine) : BoundaryOutcome := boundaryECB 0 p k e
/-- R172: `decryptECB(ciphertextHex, keyHex)`. -/
def decryptECB (c k : Text) (e : Engine) : BoundaryOutcome := boundaryECB 1 c k e
/-- R173: `encryptCBC(plaintextHex, keyHex, ivHex)`. -/
def encryptCBC (p k iv : Text) (e : Engine) : BoundaryOutcome := boundaryCBC 2 p k iv e
/-- R174: `decryptCBC(ciphertextHex, keyHex, ivHex)`. -/
def decryptCBC (c k iv : Text) (e : Engine) : BoundaryOutcome := boundaryCBC 3 c k iv e

/-- The host action that offers one instruction's transaction (R70, R73). -/
def HostAction.offer (i : Instr) : HostAction := .port (.ofWord (encode i))

/-- R80, R171, R172: the transactions an ECB boundary operation issues once its operands are decoded; `cmd`
is its command. -/
def ecbTransactions (cmd : Instr) (b k : Word) : List HostAction :=
  [.offer (.wrKey k), .offer (.wrDin b), .offer cmd, .offer (.rd 3 0)]

/-- R80, R173, R174: the transactions a CBC boundary operation issues once its operands are decoded. -/
def cbcTransactions (cmd : Instr) (b k v : Word) : List HostAction :=
  [.offer (.wrKey k), .offer (.wrDin b), .offer (.wrIv v), .offer cmd, .offer (.rd 3 0)]

end Sys2Proof.Machine
end

