-- ==== Sys2Proof/Machine/Platform.lean ====
section
/-! DEFINITION. A platform of `N_INSTANCES` engines (spec/60_exceptions.md R216), each with its own register
block and no shared state, and the clock cycles a transaction holds the port (spec/70_reset_and_hazards.md
R242). -/

namespace Sys2Proof.Machine

/-- R216: the `n` engines of a platform, each with the host actions pending on its own port. -/
abbrev Platform (n : Nat) := Vector State n

/-- `N_INSTANCES` engines (R7, R216), every one in its reset state (R231). -/
def Platform.reset : Platform Config.nInstances := Vector.replicate Config.nInstances State.reset

/-- One step of engine `i` of the platform, at its own `BASE_ADDRESS` (R56, R216). Which engine moves is the
platform's choice, so it is an argument. -/
def Platform.step {n : Nat} (i : Fin n) (p : Platform n) : Host.Outcome (Platform n) Fault Refusal :=
  match stepAt (Config.baseAddress i) p[i] with
  | .next s => .next (p.set i s)
  | .fault r => .fault r
  | .refused r => .refused r

/-- R242, R243: the clock cycles from a transaction's offer to its `ack`: finite, at least 1, open, and perhaps
dependent on the data. No step depends on it (log entry 8). -/
def transactionCycles (w : PortWord) (e : Engine) : Nat := Config.extraCycles w e.key e.din e.iv + 1

end Sys2Proof.Machine
end

