-- ==== Sys2Proof/Safety.lean ====
section
/-! DEFINITION. The terms in which claims speak of runs: the invariant of the STATUS flags, what a history of
host actions says the registers must hold, and when a run of the machine cannot stop. -/

namespace Sys2Proof.Machine

/-- `n` steps of the machine, stopping at the first fault or refusal: the host's run of `core`, at the model's own
types. -/
def run (n : Nat) (s : State) : Host.Outcome State Fault Refusal := Host.Core.run core n s

/-- The next state of an outcome, if it is one. -/
def stateOf (o : Host.Outcome State Fault Refusal) : Option State :=
  match o with
  | .next s => some s
  | .fault _ => none
  | .refused _ => none

/-- R26 to R28, R239: the legal contents of STATUS: a legal command was last (VALID = 1, ERR = NONE), an
illegal one was last (VALID = 0, ERR = ILLEGAL_COMMAND), or none since reset (VALID = 0, ERR = NONE, and
DOUT still 0). -/
def Engine.StatusLegal (e : Engine) : Prop :=
  (e.valid = true ∧ e.err = ErrorCode.none.code) ∨
  (e.valid = false ∧ e.err = ErrorCode.illegalCommand.code) ∨
  (e.valid = false ∧ e.err = ErrorCode.none.code ∧ e.dout = 0)

/-- A host action inside the spec: the port's signals, or a well-formed bus access (R58). -/
def HostAction.InSpec (a : HostAction) : Prop :=
  match a with
  | .port _ => True
  | .bus b => b.wellFormed (Config.baseAddress 0) = true

/-- The transaction that signals offer, if they offer one that is accepted (R52, R230). -/
def PortSignals.accepted (p : PortSignals) : Option PortWord :=
  if p.rst then none else if p.req then some p.word else none

/-- The command word that signals write to CMD, if they do (R25, R54). -/
def PortSignals.commandWord (p : PortSignals) : Option Word :=
  match p.accepted with
  | some w => if portWE w = true ∧ portIdx w = 4 then some (portData w) else none
  | none => none

/-- R27: the most recent command word since reset, from the port's history (oldest first). -/
def lastCommand : List PortSignals → Option Word → Option Word
  | [], last => last
  | p :: rest, last =>
    if p.rst then lastCommand rest none
    else match p.commandWord with
      | some w => lastCommand rest (some w)
      | none => lastCommand rest last

/-- R72: is a command word legal, its reserved bits all zero? -/
def legalCommand (w : Word) : Bool := decide (cmdReserved w = 0)

/-- R62: the value a slot must hold after a history (oldest first): the last value written to it since the last
reset, or else 0 after a reset, or else what it held before. -/
def lastWritten (idx : RegIndex) : List PortSignals → Word → Word
  | [], v => v
  | p :: rest, v =>
    if p.rst then lastWritten idx rest 0
    else match p.accepted with
      | some w => if portWE w = true ∧ portIdx w = idx then lastWritten idx rest (portData w) else lastWritten idx rest v
      | none => lastWritten idx rest v

/-- The state with a history of port signals pending. -/
def State.driven (s : State) (h : List PortSignals) : State := { s with pending := h.map .port }

end Sys2Proof.Machine
end

