-- ==== Sys2Proof/Certificates/Slice0/Obligations.lean ====
section
/-! DEFINITION. The statements for the provers. Each docstring names the rule of spec/ it formalises. -/

open Sys2Proof Sys2Proof.Machine

/-! ### Encoding (spec/30_encoding.md) -/

/-- R70: WE is bit 67, IDX bits 66:64 and DATA bits 63:0 of a packed transaction; written as 17 hex digits, digit
1 is `WE ‖ IDX` and digits 2 to 17 are DATA; the rule's two examples. -/
def Obligations.PackedTransactionFields : Prop :=
  (∀ (we : Bool) (idx : RegIndex) (data : Word),
    (packPort we idx data).getLsbD 67 = we ∧
    (packPort we idx data).extractLsb' 64 3 = idx ∧
    (packPort we idx data).extractLsb' 0 64 = data ∧
    portText (packPort we idx data) = hexChar (BitVec.ofBool we ++ idx) :: hexEncode 64 data) ∧
  portText (encode (.wrKey 0x133457799BBCDFF1)) = "8133457799BBCDFF1".toList ∧
  portText (encode (.rd 3 0)) = "30000000000000000".toList

/-- Decode and encode agree: every well-formed instruction, with every operand, is read back from its own word
(R71, R73). That the DATA bits which RD and WR.IGN ignore come back too is the model's choice: the instruction keeps
them (log entry 5, DESIGN CHOICE). -/
def Obligations.DecodeOfEncodeIsTheInstruction : Prop :=
  ∀ i : Instr, i.WellFormed → decodePort (encode i) = i

/-- The other direction: every 68-bit word is the word of the one instruction it decodes to, and that instruction
is well formed, so no bit of a transaction is dropped (R71, R73). For RD and WR.IGN words with DATA not 0 this is
the model's choice: R70 and R71 only say that those bits are ignored, and the model's instruction keeps them (log
entry 5, DESIGN CHOICE). -/
def Obligations.EncodeOfDecodeIsTheWord : Prop :=
  ∀ w : PortWord, (decodePort w).WellFormed ∧ encode (decodePort w) = w

/-- R71: the row each PORT value decodes to, by WE and IDX, and at index 4 by DATA as a command word; the
assembler emits DATA = 0 for a read. -/
def Obligations.DecodingByFields : Prop :=
  (∀ (idx : RegIndex) (data : Word), decodePort (packPort false idx data) = .rd idx data) ∧
  (∀ data : Word,
    decodePort (packPort true 0 data) = .wrKey data ∧
    decodePort (packPort true 1 data) = .wrDin data ∧
    decodePort (packPort true 2 data) = .wrIv data ∧
    decodePort (packPort true 3 data) = .wrIgnDout data ∧
    decodePort (packPort true 5 data) = .wrIgnStatus data ∧
    decodePort (packPort true 6 data) = .wrIgnR6 data ∧
    decodePort (packPort true 7 data) = .wrIgnR7 data ∧
    (cmdReserved data ≠ 0 → decodePort (packPort true 4 data) = .cmdIllegal data) ∧
    (cmdReserved data = 0 → decodePort (packPort true 4 data) =
      match cmdMode data, cmdDir data with
      | false, false => .encEcb
      | false, true => .decEcb
      | true, false => .encCbc
      | true, true => .decCbc)) ∧
  (∀ reg : RegIndex, (Stmt.rd reg).emit = .port (.ofWord (packPort false reg 0)))

/-- R73: the decoder gives every word the first row of the opcode table (spec/opcode_table.json, with CMD.ILLEGAL
last) whose mask and pattern it matches; in particular some row matches every word. -/
def Obligations.DecoderFollowsOpcodeTable : Prop :=
  ∀ w : PortWord, (matchRow w).map (·.mnemonic) = some (decodePort w).mnemonic

/-- A few words written out from the opcode map (R73) and what they stand for. The last clause is the model's own
reading (log entry 18, DEDUCED): a number with a bit above bit 67 is rejected, every other one is read, and `nbits`
changes nothing; R77 says only that every transaction is 68 bits. -/
def Obligations.SampleWordsDecode : Prop :=
  decodePort 0x30000000000000000 = .rd 3 0 ∧
  decodePort 0x8133457799BBCDFF1 = .wrKey 0x133457799BBCDFF1 ∧
  decodePort 0xA1234567890ABCDEF = .wrIv 0x1234567890ABCDEF ∧
  decodePort 0xD00000000000000FF = .wrIgnStatus 0xFF ∧
  decodePort 0xC0000000000000003 = .decCbc ∧
  decodePort 0xC0000000000000004 = .cmdIllegal 4 ∧
  ∀ nbits w : Nat, (decodeTableWord nbits w).isSome = true ↔ w < 2 ^ 68

/-- R74: a command word with any reserved bit set is CMD.ILLEGAL, whatever DIR and MODE are: it computes nothing
and only VALID and ERR change; and a word with none set is one of the four commands, so no command word runs as a
no-op. -/
def Obligations.ReservedCommandBitsAreRejected : Prop :=
  ∀ (data : Word) (s : State),
    (data.extractLsb' 2 62 ≠ 0 →
      decodePort (packPort true 4 data) = .cmdIllegal data ∧
      exec (decodePort (packPort true 4 data)) s =
        .next { s with engine := { s.engine with valid := false, err := 3 }, answer := .ackWrite }) ∧
    (data.extractLsb' 2 62 = 0 →
      decodePort (packPort true 4 data) = .encEcb ∨ decodePort (packPort true 4 data) = .decEcb ∨
      decodePort (packPort true 4 data) = .encCbc ∨ decodePort (packPort true 4 data) = .decCbc)

/-! ### The step (spec/20_memory.md §2, §5; spec/70_reset_and_hazards.md) -/

/-- Where the host's next action offers a transaction and `rst` is 0, the step is exactly the decoded instruction,
run with that action taken off the list (R52, R59, R236). Where nothing is offered, no register changes and no
`ack` is given (R52, R232). -/
def Obligations.StepRunsTheDecodedInstruction : Prop :=
  (∀ (s : State) (p : PortSignals) (rest : List HostAction),
    s.pending = .port p :: rest → p.rst = false → p.req = true →
    step s = exec (decodePort (packPort p.we p.idx p.wdata)) { s with pending := rest }) ∧
  (∀ (s : State) (p : PortSignals) (rest : List HostAction),
    s.pending = .port p :: rest → p.rst = false → p.req = false →
    step s = .next ⟨s.engine, rest, .noAck⟩) ∧
  (∀ s : State, s.pending = [] → step s = .next ⟨s.engine, [], .noAck⟩)

/-- R231: reset sets KEY, DIN, IV and DOUT to 0, VALID to 0 and ERR to 0, from any state (that of power-on, R234,
among them) and whatever transaction is offered at the same time, so nothing survives it; and that is
`State.reset`'s engine. -/
def Obligations.ResetZeroesEveryRegister : Prop :=
  (∀ (s : State) (p : PortSignals) (rest : List HostAction),
    s.pending = .port p :: rest → p.rst = true → step s = .next ⟨⟨0, 0, 0, 0, false, 0⟩, rest, .noAck⟩) ∧
  State.reset.engine = ⟨0, 0, 0, 0, false, 0⟩

/-! ### The register port (spec/20_memory.md R53, R54; spec/10_state.md) -/

/-- R53: what each index reads; a read changes no register, whatever its DATA field holds, and completes at every
index. -/
def Obligations.ReadBySlot : Prop :=
  ∀ (s : State) (ignored : Word),
    exec (.rd 0 ignored) s = .next { s with answer := .ackRead s.engine.key } ∧
    exec (.rd 1 ignored) s = .next { s with answer := .ackRead s.engine.din } ∧
    exec (.rd 2 ignored) s = .next { s with answer := .ackRead s.engine.iv } ∧
    exec (.rd 3 ignored) s = .next { s with answer := .ackRead s.engine.dout } ∧
    exec (.rd 4 ignored) s = .next { s with answer := .ackRead 0 } ∧
    exec (.rd 5 ignored) s =
      .next { s with answer := .ackRead ((s.engine.err ++ 0#3 ++ BitVec.ofBool s.engine.valid).setWidth 64) } ∧
    exec (.rd 6 ignored) s = .next { s with answer := .ackRead 0 } ∧
    exec (.rd 7 ignored) s = .next { s with answer := .ackRead 0 }

/-- The bits of a read of STATUS (R26): VALID at bit 0, ERR at bits 7:4, every other bit 0. -/
def Obligations.StatusReadLayout : Prop :=
  ∀ (s : State) (ignored : Word), ∃ v,
    exec (.rd 5 ignored) s = .next { s with answer := .ackRead v } ∧
    ∀ i, i < 64 → v.getLsbD i =
      (if i = 0 then s.engine.valid else if 4 ≤ i ∧ i < 8 then s.engine.err.getLsbD (i - 4) else false)

/-- R54: what a write of each index does: KEY, DIN and IV take the value and nothing else changes, index 4 runs the
command, and the other indices ignore the write; every one completes. -/
def Obligations.WriteBySlot : Prop :=
  ∀ (s : State) (v : Word),
    exec (decodePort (packPort true 0 v)) s = .next { s with engine := { s.engine with key := v }, answer := .ackWrite } ∧
    exec (decodePort (packPort true 1 v)) s = .next { s with engine := { s.engine with din := v }, answer := .ackWrite } ∧
    exec (decodePort (packPort true 2 v)) s = .next { s with engine := { s.engine with iv := v }, answer := .ackWrite } ∧
    exec (decodePort (packPort true 3 v)) s = .next { s with answer := .ackWrite } ∧
    exec (decodePort (packPort true 4 v)) s =
      .next { s with engine := s.engine.executeCommand v, answer := .ackWrite } ∧
    exec (decodePort (packPort true 5 v)) s = .next { s with answer := .ackWrite } ∧
    exec (decodePort (packPort true 6 v)) s = .next { s with answer := .ackWrite } ∧
    exec (decodePort (packPort true 7 v)) s = .next { s with answer := .ackWrite }

/-- WR.KEY, WR.DIN and WR.IV complete for every value in every state, write their one register and leave every other
register, VALID and ERR, and the pending actions as they were (R21 to R23, R54). -/
def Obligations.OperandWritesComplete : Prop :=
  ∀ (s : State) (v : Word),
    exec (.wrKey v) s =
      .next ⟨⟨v, s.engine.din, s.engine.iv, s.engine.dout, s.engine.valid, s.engine.err⟩, s.pending, .ackWrite⟩ ∧
    exec (.wrDin v) s =
      .next ⟨⟨s.engine.key, v, s.engine.iv, s.engine.dout, s.engine.valid, s.engine.err⟩, s.pending, .ackWrite⟩ ∧
    exec (.wrIv v) s =
      .next ⟨⟨s.engine.key, s.engine.din, v, s.engine.dout, s.engine.valid, s.engine.err⟩, s.pending, .ackWrite⟩

/-- R75: the four WR.IGN rows change no register and complete, and RD changes no register at any index. -/
def Obligations.IgnoredWritesAndReadsChangeNothing : Prop :=
  ∀ (s : State) (v : Word),
    exec (.wrIgnDout v) s = .next ⟨s.engine, s.pending, .ackWrite⟩ ∧
    exec (.wrIgnStatus v) s = .next ⟨s.engine, s.pending, .ackWrite⟩ ∧
    exec (.wrIgnR6 v) s = .next ⟨s.engine, s.pending, .ackWrite⟩ ∧
    exec (.wrIgnR7 v) s = .next ⟨s.engine, s.pending, .ackWrite⟩ ∧
    ∀ idx : RegIndex, ∃ r, exec (.rd idx v) s = .next ⟨s.engine, s.pending, .ackRead r⟩

/-- A read right after a write of the same register returns the written value, and a read of DOUT or STATUS right
after a CMD write returns that command's outcome (R238). -/
def Obligations.ReadAfterWriteSeesIt : Prop :=
  ∀ (s : State) (v r : Word) (rest : List HostAction),
    run 2 { s with pending := .offer (.wrKey v) :: .offer (.rd 0 r) :: rest } =
      .next ⟨{ s.engine with key := v }, rest, .ackRead v⟩ ∧
    run 2 { s with pending := .offer (.wrDin v) :: .offer (.rd 1 r) :: rest } =
      .next ⟨{ s.engine with din := v }, rest, .ackRead v⟩ ∧
    run 2 { s with pending := .offer (.wrIv v) :: .offer (.rd 2 r) :: rest } =
      .next ⟨{ s.engine with iv := v }, rest, .ackRead v⟩ ∧
    run 2 { s with pending := .port (.ofWord (packPort true 4 v)) :: .offer (.rd 3 r) :: rest } =
      .next ⟨s.engine.executeCommand v, rest, .ackRead (s.engine.executeCommand v).dout⟩ ∧
    run 2 { s with pending := .port (.ofWord (packPort true 4 v)) :: .offer (.rd 5 r) :: rest } =
      .next ⟨s.engine.executeCommand v, rest, .ackRead (if cmdReserved v = 0 then 0x1 else 0x30)⟩

/-! ### Commands (spec/43_modes_commands.md, spec/60_exceptions.md) -/

/-- R165: `ExecuteCommand(w)` for every 64-bit word written to CMD, from the word's own bits: a reserved bit set
reports ILLEGAL_COMMAND; otherwise MODE and DIR pick the result on KEY, DIN and IV as they stand, DOUT takes it,
VALID is 1 and ERR is 0. Nothing else changes, and the write completes. -/
def Obligations.ExecuteCommandByWord : Prop :=
  ∀ (w : Word) (s : State),
    exec (decodePort (packPort true 4 w)) s =
      if w.extractLsb' 2 62 ≠ 0 then
        .next { s with engine := { s.engine with valid := false, err := 3 }, answer := .ackWrite }
      else
        .next { s with
          engine := { s.engine with
            dout :=
              if w.getLsbD 1 then
                if w.getLsbD 0 then desCore s.engine.din s.engine.key true ^^^ s.engine.iv
                else desCore (s.engine.din ^^^ s.engine.iv) s.engine.key false
              else desCore s.engine.din s.engine.key (w.getLsbD 0)
            valid := true
            err := 0 }
          answer := .ackWrite }

/-- R166, ENC.ECB: its encoding; its effect in every state, `DOUT <- Core(DIN, KEY, 0); VALID <- 1; ERR <- 0` and
nothing else; KEY parity does not matter; with a weak key the second of two returns DIN; the value after reset and
the rule's example. -/
def Obligations.EncEcbCompletes : Prop :=
  decodePort 0xC0000000000000000 = .encEcb ∧
  (∀ s : State, exec .encEcb s =
    .next { s with
      engine := { s.engine with dout := desCore s.engine.din s.engine.key false, valid := true, err := 0 }
      answer := .ackWrite }) ∧
  (∀ b k k' : Word, (∀ p, 1 ≤ p → p ≤ 64 → p % 8 ≠ 0 → pos k p = pos k' p) → desCore b k false = desCore b k' false) ∧
  (∀ b, desCore (desCore b 0x0101010101010101 false) 0x0101010101010101 false = b) ∧
  desCore 0 0 false = 0x8CA64DE9C1B123A7 ∧
  desCore 0x0123456789ABCDEF 0x133457799BBCDFF1 false = 0x85E813540F0AB405

/-- R167, DEC.ECB: its encoding; its effect in every state, `DOUT <- Core(DIN, KEY, 1); VALID <- 1; ERR <- 0` and
nothing else; any DIN decrypts; for a weak key it equals ENC.ECB; the rule's example. -/
def Obligations.DecEcbCompletes : Prop :=
  decodePort 0xC0000000000000001 = .decEcb ∧
  (∀ s : State, exec .decEcb s =
    .next { s with
      engine := { s.engine with dout := desCore s.engine.din s.engine.key true, valid := true, err := 0 }
      answer := .ackWrite }) ∧
  (∀ c k : Word, ∃ b, desCore b k false = c ∧ desCore c k true = b) ∧
  (∀ b, desCore b 0x0101010101010101 true = desCore b 0x0101010101010101 false) ∧
  desCore 0x85E813540F0AB405 0x133457799BBCDFF1 true = 0x0123456789ABCDEF

/-- R168, ENC.CBC: its encoding; its effect in every state, `DOUT <- Core(DIN xor IV, KEY, 0); VALID <- 1;
ERR <- 0` and nothing else, IV among what is unchanged; IV = 0 gives the ECB result, IV = DIN encrypts the zero
block, IV = ~DIN the block of all ones; the rule's example. -/
def Obligations.EncCbcCompletes : Prop :=
  decodePort 0xC0000000000000002 = .encCbc ∧
  (∀ s : State, exec .encCbc s =
    .next { s with
      engine := { s.engine with
        dout := desCore (s.engine.din ^^^ s.engine.iv) s.engine.key false, valid := true, err := 0 }
      answer := .ackWrite }) ∧
  (∀ b k : Word, cbcE b k 0 = ecbE b k ∧ cbcE b k b = ecbE 0 k ∧ cbcE b k (~~~b) = ecbE 0xFFFFFFFFFFFFFFFF k) ∧
  cbcE 0x4E6F772069732074 0x0123456789ABCDEF 0x1234567890ABCDEF = 0xE5C7CDDE872BF27C

/-- R169, DEC.CBC: its encoding; its effect in every state, `DOUT <- Core(DIN, KEY, 1) xor IV; VALID <- 1;
ERR <- 0` and nothing else, IV among what is unchanged; IV = 0 gives the DEC.ECB result; the rule's example. -/
def Obligations.DecCbcCompletes : Prop :=
  decodePort 0xC0000000000000003 = .decCbc ∧
  (∀ s : State, exec .decCbc s =
    .next { s with
      engine := { s.engine with
        dout := desCore s.engine.din s.engine.key true ^^^ s.engine.iv, valid := true, err := 0 }
      answer := .ackWrite }) ∧
  (∀ c k : Word, cbcD c k 0 = ecbD c k) ∧
  cbcD 0xE5C7CDDE872BF27C 0x0123456789ABCDEF 0x1234567890ABCDEF = 0x4E6F772069732074

/-- CMD.ILLEGAL: `VALID <- 0; ERR <- 3`, DOUT and the operand registers keep their values, the word is not
recorded, the write completes, whatever the word's DIR and MODE; STATUS then reads 0x30; three corner words are
illegal (R203, of words with a reserved bit set). That the first clause holds of the words 0x0 to 0x3 too, which the
decoder never gives CMD.ILLEGAL, is the model's choice (log entry 15, DESIGN CHOICE). -/
def Obligations.CmdIllegalCompletes : Prop :=
  (∀ (w : Word) (s : State), exec (.cmdIllegal w) s =
    .next { s with engine := { s.engine with valid := false, err := 3 }, answer := .ackWrite }) ∧
  (∀ w : Word, cmdReserved w ≠ 0 → decodePort (packPort true 4 w) = .cmdIllegal w) ∧
  (∀ e : Engine, ({ e with valid := false, err := 3 } : Engine).portRead 5 = 0x30) ∧
  cmdReserved 0x8000000000000000 ≠ 0 ∧ cmdReserved 0x0000000000000004 ≠ 0 ∧ cmdReserved 0xFFFFFFFFFFFFFFFF ≠ 0

/-- R34: what a command leaves in DOUT, VALID and ERR depends only on KEY, DIN, IV (CBC only), DIR and MODE: two
states that agree on those, whatever else they hold, get the same from the same legal word. -/
def Obligations.CommandDependsOnlyOnItsOperands : Prop :=
  ∀ (w : Word) (s t : State),
    cmdReserved w = 0 → s.engine.key = t.engine.key → s.engine.din = t.engine.din →
    (cmdMode w = true → s.engine.iv = t.engine.iv) →
    ∃ s' t', exec (decodePort (packPort true 4 w)) s = .next s' ∧ exec (decodePort (packPort true 4 w)) t = .next t' ∧
      s'.engine.dout = t'.engine.dout ∧ s'.engine.valid = t'.engine.valid ∧ s'.engine.err = t'.engine.err

/-- Any instruction run twice in a row leaves the same state as once (R59: two identical CMD writes, and writes of
KEY, DIN and IV, are idempotent; reads have no side effects). That it holds of an ill-formed CMD.ILLEGAL too is the
model's choice (log entry 15, DESIGN CHOICE). -/
def Obligations.RepeatedTransactionChangesNothing : Prop :=
  ∀ (i : Instr) (s s' : State), exec i s = .next s' → exec i s' = .next s'

/-- An illegal command leaves the engine usable: the next legal command runs as if the illegal one had never been
written, and sets VALID = 1 and ERR = 0 (R209). That this holds of CMD.ILLEGAL with the words 0x0 to 0x3 too, which
the decoder never gives it, is the model's choice (log entry 15, DESIGN CHOICE). -/
def Obligations.LegalCommandRecovers : Prop :=
  ∀ (w : Word) (s s' : State) (i : Instr),
    i = .encEcb ∨ i = .decEcb ∨ i = .encCbc ∨ i = .decCbc →
    exec (.cmdIllegal w) s = .next s' →
    exec i s' = exec i s ∧ ∃ t, exec i s' = .next t ∧ t.engine.valid = true ∧ t.engine.err = 0

/-! ### Invariants and whole-machine rules -/

/-- The reset state meets the invariant of STATUS (R26 to R28, R231, R239). -/
def Obligations.StatusLegalAtReset : Prop := State.reset.engine.StatusLegal

/-- Every step of the machine keeps the invariant of STATUS: VALID = 1 with ERR = NONE after a legal command,
VALID = 0 with ERR = ILLEGAL_COMMAND after an illegal one, and before any command VALID = 0, ERR = NONE and
DOUT = 0 (R26 to R28, R239). -/
def Obligations.StepKeepsStatusLegal : Prop :=
  ∀ s s' : State, s.engine.StatusLegal → step s = .next s' → s'.engine.StatusLegal

/-- Only a command write or reset changes VALID, ERR or DOUT, and only a legal command or reset changes DOUT
(R24, R27, R28, R240). -/
def Obligations.OnlyCommandsAndResetWriteResults : Prop :=
  ∀ s s' : State, step s = .next s' →
    ((s'.engine.valid ≠ s.engine.valid ∨ s'.engine.err ≠ s.engine.err) →
      ∃ a rest p, s.pending = a :: rest ∧ a.signals (Config.baseAddress 0) = .ok p ∧
        (p.rst = true ∨ ∃ w, p.commandWord = some w)) ∧
    (s'.engine.dout ≠ s.engine.dout →
      ∃ a rest p, s.pending = a :: rest ∧ a.signals (Config.baseAddress 0) = .ok p ∧
        (p.rst = true ∨ ∃ w, p.commandWord = some w ∧ legalCommand w = true))

/-- KEY, DIN and IV change only by reset or by an accepted write of their own slot, and then hold the value written
(R21 to R23, R30): no command, read or ignored write touches them. -/
def Obligations.OnlyOwnWriteAndResetChangeOperands : Prop :=
  ∀ s s' : State, step s = .next s' →
    ∀ x : RegIndex, x = 0 ∨ x = 1 ∨ x = 2 → s'.engine.portRead x ≠ s.engine.portRead x →
      ∃ a rest p, s.pending = a :: rest ∧ a.signals (Config.baseAddress 0) = .ok p ∧
        ((p.rst = true ∧ s'.engine.portRead x = 0) ∨
         (p.rst = false ∧ p.req = true ∧ p.we = true ∧ p.idx = x ∧ s'.engine.portRead x = p.wdata))

/-- R28: over every history of the port, from the reset state of the engine, STATUS.ERR is the code of the most
recent command since reset (0 where there is none), and VALID is 1 exactly when that command was legal. The run
never stops. -/
def Obligations.StatusReportsTheLastCommand : Prop :=
  ∀ (h : List PortSignals) (s : State), s.engine = Engine.reset →
    ∃ s', run h.length (s.driven h) = .next s' ∧
      (match lastCommand h none with
       | none => s'.engine.valid = false ∧ s'.engine.err = 0
       | some w => s'.engine.valid = legalCommand w ∧ s'.engine.err = if legalCommand w then 0 else 3)

/-- R62: over every history of the port and from every state, KEY, DIN and IV hold the last value written to their
own slot since reset, whatever commands, reads and ignored writes stood between. -/
def Obligations.OperandsHoldTheLastWrite : Prop :=
  ∀ (h : List PortSignals) (s : State),
    ∃ s', run h.length (s.driven h) = .next s' ∧
      s'.engine.key = lastWritten 0 h s.engine.key ∧
      s'.engine.din = lastWritten 1 h s.engine.din ∧
      s'.engine.iv = lastWritten 2 h s.engine.iv

/-- R24: over every history of the port and from every state, once a legal command has been accepted, DOUT is its
result on the operands as they stood when it was accepted (the last values written before it), until the next legal
command or reset: later writes of KEY, DIN and IV, reads, and illegal commands do not change it (R34, R237, R240). -/
def Obligations.DoutHoldsTheLastLegalResult : Prop :=
  ∀ (before after : List PortSignals) (p : PortSignals) (w : Word) (s : State),
    p.commandWord = some w → legalCommand w = true →
    (∀ q ∈ after, q.rst = false ∧ ∀ u, q.commandWord = some u → legalCommand u = false) →
    ∃ s', run (before ++ p :: after).length (s.driven (before ++ p :: after)) = .next s' ∧
      s'.engine.dout = commandResult (cmdMode w) (cmdDir w)
        ⟨lastWritten 0 before s.engine.key, lastWritten 1 before s.engine.din, lastWritten 2 before s.engine.iv⟩

/-- A machine whose pending host actions are all inside the spec never stops: every step completes and takes exactly
the first action off the list (R205, R242: every transaction completes). -/
def Obligations.ActionsInSpecNeverStop : Prop :=
  ∀ (n : Nat) (s : State), (∀ a ∈ s.pending, a.InSpec) →
    ∃ s', run n s = .next s' ∧ s'.pending = s.pending.drop n

/-! ### The platform bus and several engines (spec/20_memory.md R56 to R58, spec/60_exceptions.md R216) -/

/-- Slot `idx` stands at the eight bytes from `BASE_ADDRESS + 8*idx`, the byte at offset `k` being register bits
`[63-8k : 56-8k]` (R56): an access of those eight bytes (R58) is the transaction of that slot, with that byte order.
The last clause, that a bus read is RD with DATA 0 whatever bytes stand in the access, is the model's convention
(log entry 13, DEDUCED). -/
def Obligations.BusSlotIsBigEndian : Prop :=
  (∀ (v : Word) (k : Nat), k < 8 → (slotBytes v)[k]? = some (v.extractLsb' (56 - 8 * k) 8)) ∧
  (∀ v : Word, wordOfBytes (slotBytes v) = v) ∧
  (∀ (s : State) (rest : List HostAction) (idx : RegIndex) (v : Word),
    step { s with pending := .bus ⟨true, Config.baseAddress 0 + 8 * idx.toNat, 8, slotBytes v⟩ :: rest } =
      exec (decodePort (packPort true idx v)) { s with pending := rest }) ∧
  (∀ (s : State) (rest : List HostAction) (idx : RegIndex) (bytes : List Byte),
    step { s with pending := .bus ⟨false, Config.baseAddress 0 + 8 * idx.toNat, 8, bytes⟩ :: rest } =
      exec (decodePort (packPort false idx 0)) { s with pending := rest })

/-- R58: a bus access that is not 8 bytes wide, or not at `BASE_ADDRESS + 8*idx` of one of the eight slots, is
refused by name. -/
def Obligations.OtherBusAccessesAreRefused : Prop :=
  ∀ (s : State) (rest : List HostAction) (a : BusAccess),
    a.width ≠ 8 ∨ (∀ idx : RegIndex, a.addr ≠ Config.baseAddress 0 + 8 * idx.toNat) →
    step { s with pending := .bus a :: rest } = .refused (.busAccessOutsideSpec a)

/-- Engines share no state (R216): a step of one leaves every other as it was, and steps of two different engines
give the same platform in either order. -/
def Obligations.EnginesAreIndependent : Prop :=
  ∀ (n : Nat) (i j : Fin n) (p q : Platform n), i ≠ j → Platform.step i p = .next q →
    q[j] = p[j] ∧
    ∀ q', Platform.step j p = .next q' → ∃ r, Platform.step j q = .next r ∧ Platform.step i q' = .next r

/-! ### The codec and the boundary operations (spec/40_primitives.md §1, spec/43_modes_commands.md §3) -/

/-- R100: `HexDecode_n`: exactly the 22 characters 0-9, A-F and a-f are digits; a string with any other character is
InvalidEncoding, whatever its length; one of hex digits only but not `n/4` of them is InvalidLength; every other
string is a value, whose digit `j` is the string's character `j`. -/
def Obligations.HexDecodeContract : Prop :=
  (∀ c : Char, hexDigit c ≠ none ↔ c ∈ "0123456789ABCDEFabcdef".toList) ∧
  "0123456789ABCDEF".toList.map hexDigit = (List.range 16).map some ∧
  "abcdef".toList.map hexDigit = "ABCDEF".toList.map hexDigit ∧
  (∀ (n : Nat) (s : Text), n % 4 = 0 →
    ((∃ c ∈ s, hexDigit c = none) → hexDecode n s = .error .invalidEncoding) ∧
    ((∀ c ∈ s, hexDigit c ≠ none) → s.length ≠ n / 4 → hexDecode n s = .error .invalidLength) ∧
    ((∀ c ∈ s, hexDigit c ≠ none) → s.length = n / 4 →
      ∃ v, hexDecode n s = .ok v ∧
        ∀ (j : Nat) (hj : j < s.length), hexDigit s[j] = some (v.extractLsb' (n - 4 * (j + 1)) 4).toNat))

/-- R102: the codec is exactly invertible at every declared width: decoding an encoded value gives it back; encoding
what an upper-case string decodes to gives the string back; and any valid string re-encodes to an upper-case
spelling of the same value. -/
def Obligations.HexCodecIsInvertible : Prop :=
  ∀ n : Nat, n % 4 = 0 →
    (∀ v : BitVec n, hexDecode n (hexEncode n v) = .ok v) ∧
    (∀ (s : Text) (w : BitVec n), hexDecode n s = .ok w → upperCase s = true → hexEncode n w = s) ∧
    (∀ (s : Text) (w : BitVec n), hexDecode n s = .ok w →
      upperCase (hexEncode n w) = true ∧ hexDecode n (hexEncode n w) = .ok w)

/-- R171, R172: `encryptECB` and `decryptECB`: the first operand that does not decode, data before key, is the error
and the engine is untouched; otherwise the result is the hex form of `Core(P, K, 0)` or `Core(C, K, 1)`, and KEY,
DIN, DOUT, VALID and ERR hold what the rule says, IV unchanged; the rules' examples. -/
def Obligations.BoundaryEcbContract : Prop :=
  (∀ (p k : Text) (e : Engine),
    (∀ c, hexDecode 64 p = .error c →
      encryptECB p k e = ⟨.error ⟨c, .data⟩, e⟩ ∧ decryptECB p k e = ⟨.error ⟨c, .data⟩, e⟩) ∧
    (∀ b c, hexDecode 64 p = .ok b → hexDecode 64 k = .error c →
      encryptECB p k e = ⟨.error ⟨c, .key⟩, e⟩ ∧ decryptECB p k e = ⟨.error ⟨c, .key⟩, e⟩) ∧
    (∀ b kv, hexDecode 64 p = .ok b → hexDecode 64 k = .ok kv →
      encryptECB p k e = ⟨.ok (hexEncode 64 (desCore b kv false)),
        ⟨kv, b, e.iv, desCore b kv false, true, 0⟩⟩ ∧
      decryptECB p k e = ⟨.ok (hexEncode 64 (desCore b kv true)),
        ⟨kv, b, e.iv, desCore b kv true, true, 0⟩⟩)) ∧
  (∀ e : Engine,
    (encryptECB "0123456789ABCDEF".toList "133457799BBCDFF1".toList e).result = .ok "85E813540F0AB405".toList ∧
    (decryptECB "85E813540F0AB405".toList "133457799BBCDFF1".toList e).result = .ok "0123456789ABCDEF".toList)

/-- R173, R174: `encryptCBC` and `decryptCBC`: the first operand that does not decode, in the order data, key, iv, is
the error and the engine is untouched; otherwise the result and the registers are as the rules say; the rules'
examples. -/
def Obligations.BoundaryCbcContract : Prop :=
  (∀ (p k iv : Text) (e : Engine),
    (∀ c, hexDecode 64 p = .error c →
      encryptCBC p k iv e = ⟨.error ⟨c, .data⟩, e⟩ ∧ decryptCBC p k iv e = ⟨.error ⟨c, .data⟩, e⟩) ∧
    (∀ b c, hexDecode 64 p = .ok b → hexDecode 64 k = .error c →
      encryptCBC p k iv e = ⟨.error ⟨c, .key⟩, e⟩ ∧ decryptCBC p k iv e = ⟨.error ⟨c, .key⟩, e⟩) ∧
    (∀ b kv c, hexDecode 64 p = .ok b → hexDecode 64 k = .ok kv → hexDecode 64 iv = .error c →
      encryptCBC p k iv e = ⟨.error ⟨c, .iv⟩, e⟩ ∧ decryptCBC p k iv e = ⟨.error ⟨c, .iv⟩, e⟩) ∧
    (∀ b kv v, hexDecode 64 p = .ok b → hexDecode 64 k = .ok kv → hexDecode 64 iv = .ok v →
      encryptCBC p k iv e = ⟨.ok (hexEncode 64 (desCore (b ^^^ v) kv false)),
        ⟨kv, b, v, desCore (b ^^^ v) kv false, true, 0⟩⟩ ∧
      decryptCBC p k iv e = ⟨.ok (hexEncode 64 (desCore b kv true ^^^ v)),
        ⟨kv, b, v, desCore b kv true ^^^ v, true, 0⟩⟩)) ∧
  (∀ e : Engine,
    (encryptCBC "4E6F772069732074".toList "0123456789ABCDEF".toList "1234567890ABCDEF".toList e).result =
      .ok "E5C7CDDE872BF27C".toList ∧
    (decryptCBC "E5C7CDDE872BF27C".toList "0123456789ABCDEF".toList "1234567890ABCDEF".toList e).result =
      .ok "4E6F772069732074".toList)

/-- R207: a boundary error leaves KEY, DIN, IV, DOUT, VALID and ERR as they were, and its code is INVALID_ENCODING or
INVALID_LENGTH. -/
def Obligations.BoundaryErrorLeavesTheEngine : Prop :=
  ∀ (p k iv : Text) (e : Engine) (x : BoundaryError),
    ∀ o ∈ [encryptECB p k e, decryptECB p k e, encryptCBC p k iv e, decryptCBC p k iv e],
      o.result = .error x → o.engine = e ∧ (x.code.code = 1 ∨ x.code.code = 2)

/-- The result of a boundary operation does not depend on the engine's state before the call, and it is never
ILLEGAL_COMMAND (R175). -/
def Obligations.BoundaryResultIgnoresTheEngine : Prop :=
  ∀ (p k iv : Text) (e e' : Engine),
    (encryptECB p k e).result = (encryptECB p k e').result ∧
    (decryptECB p k e).result = (decryptECB p k e').result ∧
    (encryptCBC p k iv e).result = (encryptCBC p k iv e').result ∧
    (decryptCBC p k iv e).result = (decryptCBC p k iv e').result ∧
    ∀ o ∈ [encryptECB p k e, decryptECB p k e, encryptCBC p k iv e, decryptCBC p k iv e],
      ∀ name, o.result ≠ .error ⟨.illegalCommand, name⟩

/-- R80: a boundary operation whose operands decode is its fixed sequence of transactions (R171 to R174): the machine
that steps through them ends with the same engine, having read the value the operation returns. -/
def Obligations.BoundaryRefinesItsTransactions : Prop :=
  ∀ (p k iv : Text) (b kv v : Word) (s : State) (rest : List HostAction),
    hexDecode 64 p = .ok b → hexDecode 64 k = .ok kv → hexDecode 64 iv = .ok v →
    (∃ d, run 4 { s with pending := ecbTransactions .encEcb b kv ++ rest } =
        .next ⟨(encryptECB p k s.engine).engine, rest, .ackRead d⟩ ∧
      (encryptECB p k s.engine).result = .ok (hexEncode 64 d)) ∧
    (∃ d, run 4 { s with pending := ecbTransactions .decEcb b kv ++ rest } =
        .next ⟨(decryptECB p k s.engine).engine, rest, .ackRead d⟩ ∧
      (decryptECB p k s.engine).result = .ok (hexEncode 64 d)) ∧
    (∃ d, run 5 { s with pending := cbcTransactions .encCbc b kv v ++ rest } =
        .next ⟨(encryptCBC p k iv s.engine).engine, rest, .ackRead d⟩ ∧
      (encryptCBC p k iv s.engine).result = .ok (hexEncode 64 d)) ∧
    (∃ d, run 5 { s with pending := cbcTransactions .decCbc b kv v ++ rest } =
        .next ⟨(decryptCBC p k iv s.engine).engine, rest, .ackRead d⟩ ∧
      (decryptCBC p k iv s.engine).result = .ok (hexEncode 64 d))

/-- The round trip at the boundary (R170, R102): what `encryptECB` or `encryptCBC` returns for operands that decode,
the decrypting operation turns back, from any engine state, into the upper-case spelling of the data. -/
def Obligations.BoundaryRoundTrip : Prop :=
  ∀ (p k iv : Text) (b kv v : Word) (e e' : Engine),
    hexDecode 64 p = .ok b → hexDecode 64 k = .ok kv → hexDecode 64 iv = .ok v →
    (∃ c, (encryptECB p k e).result = .ok c ∧ (decryptECB c k e').result = .ok (hexEncode 64 b)) ∧
    (∃ c, (encryptCBC p k iv e).result = .ok c ∧ (decryptCBC c k iv e').result = .ok (hexEncode 64 b))

/-! ### Host programs (spec/30_encoding.md §5) -/

/-- R79: each pseudo-instruction expands to its write of CMD and assembles to its PORT word. -/
def Obligations.PseudoInstructionsExpand : Prop :=
  Stmt.encEcb.expand = .wr 4 0x0 ∧ assemble "ENC.ECB\n".toList = .ok [.port (.ofWord 0xC0000000000000000)] ∧
  Stmt.decEcb.expand = .wr 4 0x1 ∧ assemble "DEC.ECB\n".toList = .ok [.port (.ofWord 0xC0000000000000001)] ∧
  Stmt.encCbc.expand = .wr 4 0x2 ∧ assemble "ENC.CBC\n".toList = .ok [.port (.ofWord 0xC0000000000000002)] ∧
  Stmt.decCbc.expand = .wr 4 0x3 ∧ assemble "DEC.CBC\n".toList = .ok [.port (.ofWord 0xC0000000000000003)]

/-- An immediate is `0x` and 1 to 16 hex digits, zero-extended to 64 bits; one of more digits is an assembly error
(R78). -/
def Obligations.ImmediatesHaveOneToSixteenDigits : Prop :=
  ∀ (t : Text) (ds : List Nat), hexDigits t = some ds →
    (1 ≤ t.length → t.length ≤ 16 →
      ∃ v, parseImm ('0' :: 'x' :: t) = .ok v ∧ v.toNat = digitsValue ds) ∧
    (16 < t.length → parseImm ('0' :: 'x' :: t) = .error .immediateTooLong) ∧
    (t = [] → parseImm ('0' :: 'x' :: t) = .error .badStatement)

/-! ### The datapath (spec/40_primitives.md, spec/41_key_schedule.md, spec/42_round_core.md) -/

/-- R103: output position `i` of `perm(T, v, n)` is input position `T[i]`, for every table whose entries lie in 1..n
(a table that repeats or omits positions among them); and the two laws, over xor and over complement. -/
def Obligations.PermutationLaws : Prop :=
  ∀ (n m : Nat) (T : Vector Nat m), (∀ p ∈ T.toList, 1 ≤ p ∧ p ≤ n) →
    (∀ (v : BitVec n) (i : Nat) (hi : 1 ≤ i) (him : i ≤ m), pos (perm T v) i = pos v T[i - 1]) ∧
    (∀ a b : BitVec n, perm T (a ^^^ b) = perm T a ^^^ perm T b) ∧
    (∀ v : BitVec n, perm T (~~~v) = ~~~(perm T v))

/-- R106: IP and FP are mutual inverses, as tables and on every 64-bit value. -/
def Obligations.InitialAndFinalPermutationsAreInverses : Prop :=
  (∀ i : Fin 64, tableFP.toList.getD (tableIP.toList.getD i 0 - 1) 0 = i + 1 ∧
    tableIP.toList.getD (tableFP.toList.getD i 0 - 1) 0 = i + 1) ∧
  (∀ v : Word, permFP (permIP v) = v ∧ permIP (permFP v) = v)

/-- R111: group `i + 1` of the S-box input is bits `47-6i` down to `42-6i`; its outer bits are the row, the first the
high bit, and its inner four bits the column of table `S_{i+1}`; the value is nibble `i + 1` of the result; the
rule's three examples. -/
def Obligations.SboxByGroup : Prop :=
  (∀ (x : BitVec 48) (i : Fin 8),
    (sboxAll x).extractLsb' (28 - 4 * i) 4 = BitVec.ofNat 4
      ((((sboxes.getD i sbox1).toList.map Vector.toList).getD
        (2 * (x.getLsbD (47 - 6 * i)).toNat + (x.getLsbD (42 - 6 * i)).toNat) []).getD
        (x.extractLsb' (43 - 6 * i) 4).toNat 0)) ∧
  sboxAll 0x6117BA866527 = 0x5C82B597 ∧ sboxAll 0x000000000000 = 0xEFA72C4D ∧ sboxAll 0xFFFFFFFFFFFF = 0xD9CE3DCB

/-- R120: eight tables of 4 rows by 16 columns, every value in [0,15], each row holding each of 0..15 exactly once. -/
def Obligations.SboxTablesAreWellShaped : Prop :=
  sboxes.length = 8 ∧
  ∀ S ∈ sboxes, S.toList.length = 4 ∧
    ∀ row ∈ S.toList, row.toList.length = 16 ∧ (∀ v ∈ row.toList, v ≤ 15) ∧
      ∀ v ∈ List.range 16, row.toList.count v = 1

/-- R132: `rotl28` moves the first `s` bits (1 or 2) from the left end to the right end; the rule's examples. -/
def Obligations.RotationMovesTheLeftBits : Prop :=
  (∀ x : KeyHalf,
    rotl28 x 1 = (x.extractLsb' 0 27 ++ x.extractLsb' 27 1 : BitVec 28) ∧
    rotl28 x 2 = (x.extractLsb' 0 26 ++ x.extractLsb' 26 2 : BitVec 28)) ∧
  rotl28 0xF0CCAAF 1 = 0xE19955F ∧ rotl28 0x8000000 1 = 0x0000001 ∧ rotl28 0xC000001 2 = 0x0000007

/-- R136: the halves return after the 16 rotations; the parity positions do not matter, to the schedule or to any
command's result; and each bit of each round key is one bit of the key, so the schedule of `~key` is the complements;
the rule's example. -/
def Obligations.KeyScheduleLaws : Prop :=
  (∀ key : Word, (keyHalves key).getLast? = some (keyC0 key, keyD0 key)) ∧
  (∀ k k' : Word, (∀ p, 1 ≤ p → p ≤ 64 → p % 8 ≠ 0 → pos k p = pos k' p) →
    keySchedule k = keySchedule k' ∧
    ∀ (w : Word) (e : Engine),
      ({ e with key := k }.executeCommand w).dout = ({ e with key := k' }.executeCommand w).dout) ∧
  (∀ n i : Nat, n < 16 → i < 48 →
    ∃ p, 1 ≤ p ∧ p ≤ 64 ∧ ∀ key : Word, ((keySchedule key).getD n 0).getLsbD i = pos key p) ∧
  (∀ key : Word, keySchedule (~~~key) = (keySchedule key).map (~~~·)) ∧
  ecbE 0 0x0000000000000000 = 0x8CA64DE9C1B123A7 ∧ ecbE 0 0x0101010101010101 = 0x8CA64DE9C1B123A7

/-- R137: two keys give the same sequence of round keys if and only if they agree in all 56 positions that PC-1
selects. -/
def Obligations.KeySequenceDeterminesTheEffectiveKey : Prop :=
  ∀ k k' : Word, keySchedule k = keySchedule k' ↔ ∀ p ∈ tablePC1.toList, pos k p = pos k' p

/-- R138: each of the four weak keys gives 16 equal round keys, encryption and decryption are then the same function,
and encrypting twice returns the block. -/
def Obligations.WeakKeys : Prop :=
  ∀ key ∈ ([0x0101010101010101, 0xFEFEFEFEFEFEFEFE, 0xE0E0E0E0F1F1F1F1, 0x1F1F1F1F0E0E0E0E] : List Word),
    (∃ k, keySchedule key = List.replicate 16 k) ∧
    ∀ b : Word, ecbE b key = ecbD b key ∧ ecbE (ecbE b key) key = b

/-- R141: the corner cases of F: its value at zero and at all ones; F depends on its arguments only through
`E(R) xor K`, so complementing both changes nothing; and F is not invertible. -/
def Obligations.RoundFunctionCorners : Prop :=
  roundF 0x00000000 0x000000000000 = 0xD8D8DBBC ∧
  roundF 0xFFFFFFFF 0xFFFFFFFFFFFF = 0xD8D8DBBC ∧
  roundF 0xFFFFFFFF 0x000000000000 = 0x38DBF9CB ∧
  roundF 0x00000000 0xFFFFFFFFFFFF = 0x38DBF9CB ∧
  (∀ (r r' : Half) (k k' : RoundKey), expandE r ^^^ k = expandE r' ^^^ k' → roundF r k = roundF r' k') ∧
  (∀ (r : Half) (k : RoundKey), roundF (~~~r) (~~~k) = roundF r k) ∧
  ∃ (k : RoundKey) (r r' : Half), r ≠ r' ∧ roundF r k = roundF r' k

/-- R144: a core that skips the swap of the last round and applies FP to `L ‖ R` computes the same value as one that
swaps in every round and applies FP to `R16 ‖ L16`; one that swaps in every round and applies FP to `L16 ‖ R16` does
not. -/
def Obligations.LastSwapIsUndone : Prop :=
  (∀ (b k : Word) (dir : Bool) (ks : List RoundKey) (last : RoundKey),
    roundKeys k dir = ks ++ [last] →
    desCore b k dir =
      (let h := feistel ks (splitHalves (permIP b))
       permFP ((h.l ^^^ roundF h.r last) ++ h.r))) ∧
  (∃ b k : Word,
    desCore b k false ≠
      (let h := feistel (roundKeys k false) (splitHalves (permIP b))
       permFP (h.l ++ h.r)))

/-- R146, the primary correctness invariant: decryption undoes encryption and encryption undoes decryption, for every
block and key, so each direction is a bijection; the rule's example. -/
def Obligations.CoreRoundTrip : Prop :=
  (∀ b k : Word, desCore (desCore b k false) k true = b ∧ desCore (desCore b k true) k false = b) ∧
  (∀ k : Word, Function.Bijective fun b => desCore b k false) ∧
  desCore 0x85E813540F0AB405 0x133457799BBCDFF1 true = 0x0123456789ABCDEF

/-- R147: complementing the block and the key complements the result, in both directions; the rule's example. -/
def Obligations.CoreComplementation : Prop :=
  (∀ (b k : Word) (dir : Bool), desCore (~~~b) (~~~k) dir = ~~~(desCore b k dir)) ∧
  desCore (~~~0x0123456789ABCDEF) (~~~0x133457799BBCDFF1) false = 0x7A17ECABF0F54BFA

/-- R170: the mode laws: the ECB and CBC round trips, the same result twice from two ENC.ECB commands in a row,
different results for two different IVs, and IV = 0. -/
def Obligations.ModeLaws : Prop :=
  (∀ b k : Word, ecbD (ecbE b k) k = b) ∧
  (∀ b k v : Word, cbcD (cbcE b k v) k v = b) ∧
  (∀ s : State, ∃ s1 s2, exec .encEcb s = .next s1 ∧ exec .encEcb s1 = .next s2 ∧
    s1.engine.dout = s2.engine.dout) ∧
  (∀ b k v v' : Word, v ≠ v' → cbcE b k v ≠ cbcE b k v') ∧
  (∀ b k : Word, cbcE b k 0 = ecbE b k ∧ cbcD b k 0 = ecbD b k)
end

