-- ==== Sys2Proof/Laws/Codec.lean ====
section
/-! SUPPORT. The codec's digits (R100, R101). -/

namespace Sys2Proof.Machine

/-- A written digit reads back (R102), one digit at a time. -/
@[simp] theorem hexDigit_hexChar (d : BitVec 4) : hexDigit (hexChar d) = some d.toNat := by
  revert d; decide

/-- The digits of a string are as many as its characters. -/
theorem hexDigits_length {s : Text} {ds : List Nat} (h : hexDigits s = some ds) : ds.length = s.length := by
  induction s generalizing ds with
  | nil => cases h; rfl
  | cons c cs ih =>
    simp only [hexDigits] at h
    split at h
    · next d ds' _ hs => cases h; simp [ih hs]
    · cases h

/-- R100: the character check fails exactly when some character is no hex digit. -/
theorem hexDigits_eq_none_iff (s : Text) : hexDigits s = none ↔ ∃ c ∈ s, hexDigit c = none := by
  induction s with
  | nil => simp [hexDigits]
  | cons c cs ih =>
    cases hc : hexDigit c <;> cases hs : hexDigits cs <;> simp_all [hexDigits]

end Sys2Proof.Machine
end

