-- ==== Sys2Proof/Laws/Encoding.lean ====
section
/-! SUPPORT. The fields of a packed transaction, and the two halves of the decoder as case lemmas. -/

namespace Sys2Proof

/-- Bit `i` of a packed transaction: DATA below 64, IDX from 64 to 66, WE at 67 (R70). -/
theorem getLsbD_packPort (we : Bool) (idx : RegIndex) (data : Word) (i : Nat) :
    (packPort we idx data).getLsbD i =
      if i < 64 then data.getLsbD i
      else if i < 67 then idx.getLsbD (i - 64)
      else (BitVec.ofBool we).getLsbD (i - 67) := by
  change BitVec.getLsbD (w := 1 + 3 + 64) (BitVec.ofBool we ++ idx ++ data) i = _
  rw [BitVec.getLsbD_append, BitVec.getLsbD_append]
  by_cases h64 : i < 64
  · simp [h64]
  · by_cases h67 : i < 67
    · simp [h64, h67, show i - 64 < 3 by omega]
    · simp [h64, h67, show ¬ i - 64 < 3 by omega, show i - 64 - 3 = i - 67 by omega]

@[simp] theorem portWE_packPort (we : Bool) (idx : RegIndex) (data : Word) :
    portWE (packPort we idx data) = we := by
  simp only [portWE, getLsbD_packPort]; simp

@[simp] theorem portIdx_packPort (we : Bool) (idx : RegIndex) (data : Word) :
    portIdx (packPort we idx data) = idx := by
  apply BitVec.eq_of_getLsbD_eq
  intro i hi
  simp only [portIdx, BitVec.getLsbD_extractLsb', getLsbD_packPort]
  simp [hi, show 64 + i < 67 by omega]

@[simp] theorem portData_packPort (we : Bool) (idx : RegIndex) (data : Word) :
    portData (packPort we idx data) = data := by
  apply BitVec.eq_of_getLsbD_eq
  intro i hi
  simp only [portData, BitVec.getLsbD_extractLsb', getLsbD_packPort]
  simp [hi]

/-- A word is the packed form of its own fields (R70). -/
theorem packPort_fields (w : PortWord) : packPort (portWE w) (portIdx w) (portData w) = w := by
  apply BitVec.eq_of_getLsbD_eq
  intro i hi
  rw [getLsbD_packPort]
  by_cases h64 : i < 64
  · simp only [h64, if_true, portData, BitVec.getLsbD_extractLsb']; simp
  · by_cases h67 : i < 67
    · simp only [h64, h67, if_true, if_false, portIdx, BitVec.getLsbD_extractLsb']
      simp [show i - 64 < 3 by omega, show 64 + (i - 64) = i by omega]
    · have h : i = 67 := by omega
      subst h
      simp [portWE]

/-- Decoding a packed read (R71). -/
@[simp] theorem decodePort_read (idx : RegIndex) (data : Word) :
    decodePort (packPort false idx data) = .rd idx data := by
  simp [decodePort]

/-- Decoding a packed write (R71). -/
@[simp] theorem decodePort_write (idx : RegIndex) (data : Word) :
    decodePort (packPort true idx data) = decodeWrite idx data := by
  simp [decodePort]

/-- A 3-bit index is one of the eight (R50). -/
theorem regIndex_cases (idx : RegIndex) :
    idx = 0 ∨ idx = 1 ∨ idx = 2 ∨ idx = 3 ∨ idx = 4 ∨ idx = 5 ∨ idx = 6 ∨ idx = 7 := by
  revert idx; decide

/-- R72, R73: the reserved field is zero exactly for the four command words. -/
theorem cmdReserved_eq_zero_iff (w : Word) : cmdReserved w = 0 ↔ w = 0 ∨ w = 1 ∨ w = 2 ∨ w = 3 := by
  have hval : (cmdReserved w = 0) ↔ w.toNat < 4 := by
    rw [← BitVec.toNat_inj]
    simp [cmdReserved, Nat.shiftRight_eq_div_pow]
    have := w.isLt
    omega
  rw [hval]
  simp only [← BitVec.toNat_inj]
  change _ ↔ w.toNat = 0 ∨ w.toNat = 1 ∨ w.toNat = 2 ∨ w.toNat = 3
  omega

end Sys2Proof
end

