-- ==== Sys2Proof/Laws/State.lean ====
section
/-! SUPPORT. One lemma per field per update of the state and of the engine, so that no later proof unfolds a
record update. -/

namespace Sys2Proof.Machine

@[simp] theorem State.ackWrite_engine (e : Engine) (s : State) : (s.ackWrite e).engine = e := rfl
@[simp] theorem State.ackWrite_pending (e : Engine) (s : State) : (s.ackWrite e).pending = s.pending := rfl
@[simp] theorem State.ackWrite_answer (e : Engine) (s : State) : (s.ackWrite e).answer = .ackWrite := rfl

@[simp] theorem State.ackRead_engine (v : Word) (s : State) : (s.ackRead v).engine = s.engine := rfl
@[simp] theorem State.ackRead_pending (v : Word) (s : State) : (s.ackRead v).pending = s.pending := rfl
@[simp] theorem State.ackRead_answer (v : Word) (s : State) : (s.ackRead v).answer = .ackRead v := rfl

@[simp] theorem State.applyReset_engine (s : State) : s.applyReset.engine = Engine.reset := rfl
@[simp] theorem State.applyReset_pending (s : State) : s.applyReset.pending = s.pending := rfl
@[simp] theorem State.applyReset_answer (s : State) : s.applyReset.answer = .noAck := rfl

@[simp] theorem State.idle_engine (s : State) : s.idle.engine = s.engine := rfl
@[simp] theorem State.idle_pending (s : State) : s.idle.pending = s.pending := rfl
@[simp] theorem State.idle_answer (s : State) : s.idle.answer = .noAck := rfl

@[simp] theorem Engine.flagLegal_key (e : Engine) : e.flagLegal.key = e.key := rfl
@[simp] theorem Engine.flagLegal_din (e : Engine) : e.flagLegal.din = e.din := rfl
@[simp] theorem Engine.flagLegal_iv (e : Engine) : e.flagLegal.iv = e.iv := rfl
@[simp] theorem Engine.flagLegal_dout (e : Engine) : e.flagLegal.dout = e.dout := rfl
@[simp] theorem Engine.flagLegal_valid (e : Engine) : e.flagLegal.valid = true := rfl
@[simp] theorem Engine.flagLegal_err (e : Engine) : e.flagLegal.err = 0 := rfl

@[simp] theorem Engine.flagIllegal_key (e : Engine) : e.flagIllegal.key = e.key := rfl
@[simp] theorem Engine.flagIllegal_din (e : Engine) : e.flagIllegal.din = e.din := rfl
@[simp] theorem Engine.flagIllegal_iv (e : Engine) : e.flagIllegal.iv = e.iv := rfl
@[simp] theorem Engine.flagIllegal_dout (e : Engine) : e.flagIllegal.dout = e.dout := rfl
@[simp] theorem Engine.flagIllegal_valid (e : Engine) : e.flagIllegal.valid = false := rfl
@[simp] theorem Engine.flagIllegal_err (e : Engine) : e.flagIllegal.err = 3 := rfl

@[simp] theorem Engine.raiseIllegalCommand_key (e : Engine) : e.raiseIllegalCommand.key = e.key := rfl
@[simp] theorem Engine.raiseIllegalCommand_din (e : Engine) : e.raiseIllegalCommand.din = e.din := rfl
@[simp] theorem Engine.raiseIllegalCommand_iv (e : Engine) : e.raiseIllegalCommand.iv = e.iv := rfl
@[simp] theorem Engine.raiseIllegalCommand_dout (e : Engine) : e.raiseIllegalCommand.dout = e.dout := rfl
@[simp] theorem Engine.raiseIllegalCommand_valid (e : Engine) : e.raiseIllegalCommand.valid = false := rfl
@[simp] theorem Engine.raiseIllegalCommand_err (e : Engine) : e.raiseIllegalCommand.err = 3 := rfl

@[simp] theorem Engine.completeCommand_key (r : Word) (e : Engine) : (e.completeCommand r).key = e.key := rfl
@[simp] theorem Engine.completeCommand_din (r : Word) (e : Engine) : (e.completeCommand r).din = e.din := rfl
@[simp] theorem Engine.completeCommand_iv (r : Word) (e : Engine) : (e.completeCommand r).iv = e.iv := rfl
@[simp] theorem Engine.completeCommand_dout (r : Word) (e : Engine) : (e.completeCommand r).dout = r := rfl
@[simp] theorem Engine.completeCommand_valid (r : Word) (e : Engine) : (e.completeCommand r).valid = true := rfl
@[simp] theorem Engine.completeCommand_err (r : Word) (e : Engine) : (e.completeCommand r).err = 0 := rfl

@[simp] theorem Engine.sample_k (e : Engine) : e.sample.k = e.key := rfl
@[simp] theorem Engine.sample_b (e : Engine) : e.sample.b = e.din := rfl
@[simp] theorem Engine.sample_v (e : Engine) : e.sample.v = e.iv := rfl

end Sys2Proof.Machine
end

