-- ==== Sys2Proof/Laws/Ops.lean ====
section
/-! SUPPORT. What each shared operation can do, said once: the port operations by index, a command by whether its
word is legal, an instruction by its kind, and a step by what stands first in the pending list. -/

namespace Sys2Proof.Machine

/-- What `PortWrite` does, by index (R54). -/
theorem portWrite_cases (idx : RegIndex) (v : Word) (e : Engine) :
    (idx = 0 ∧ e.portWrite idx v = { e with key := v }) ∨
    (idx = 1 ∧ e.portWrite idx v = { e with din := v }) ∨
    (idx = 2 ∧ e.portWrite idx v = { e with iv := v }) ∨
    (idx = 4 ∧ e.portWrite idx v = e.executeCommand v) ∨
    ((idx = 3 ∨ idx = 5 ∨ idx = 6 ∨ idx = 7) ∧ e.portWrite idx v = e) := by
  obtain h | h | h | h | h | h | h | h := regIndex_cases idx <;> subst h <;> simp [Engine.portWrite]

/-- An illegal word only reports the error (R165, R208). -/
theorem executeCommand_illegal {w : Word} (h : cmdReserved w ≠ 0) (e : Engine) :
    e.executeCommand w = e.raiseIllegalCommand := if_pos h

/-- A legal word completes with the result of its mode and direction (R165). -/
theorem executeCommand_legal {w : Word} (h : cmdReserved w = 0) (e : Engine) :
    e.executeCommand w = e.completeCommand (commandResult (cmdMode w) (cmdDir w) e.sample) :=
  if_neg (not_not_intro h)

/-- What `ExecuteCommand` leaves, whatever the word: the operand registers as they were, and either a legal
completion or an illegal-command report. -/
theorem executeCommand_cases (w : Word) (e : Engine) :
    (cmdReserved w ≠ 0 ∧ e.executeCommand w = e.raiseIllegalCommand) ∨
    (cmdReserved w = 0 ∧ ∃ r, e.executeCommand w = e.completeCommand r) := by
  by_cases h : cmdReserved w = 0
  · exact .inr ⟨h, _, executeCommand_legal h e⟩
  · exact .inl ⟨h, executeCommand_illegal h e⟩

/-- The whole effect of an instruction, in one of five shapes. -/
theorem exec_cases (i : Instr) (s : State) :
    (∃ v, exec i s = .next (s.ackRead v)) ∨
    (∃ v, exec i s = .next (s.ackWrite { s.engine with key := v }) ∨
      exec i s = .next (s.ackWrite { s.engine with din := v }) ∨
      exec i s = .next (s.ackWrite { s.engine with iv := v })) ∨
    exec i s = .next (s.ackWrite s.engine) ∨
    (∃ r, exec i s = .next (s.ackWrite (s.engine.completeCommand r))) ∨
    exec i s = .next (s.ackWrite s.engine.raiseIllegalCommand) := by
  cases i with
  | rd idx d => exact .inl ⟨_, rfl⟩
  | wrKey v => exact .inr (.inl ⟨v, .inl rfl⟩)
  | wrDin v => exact .inr (.inl ⟨v, .inr (.inl rfl)⟩)
  | wrIv v => exact .inr (.inl ⟨v, .inr (.inr rfl)⟩)
  | wrIgnDout d => exact .inr (.inr (.inl rfl))
  | wrIgnStatus d => exact .inr (.inr (.inl rfl))
  | wrIgnR6 d => exact .inr (.inr (.inl rfl))
  | wrIgnR7 d => exact .inr (.inr (.inl rfl))
  | encEcb => exact .inr (.inr (.inr (.inl ⟨_, rfl⟩)))
  | decEcb => exact .inr (.inr (.inr (.inl ⟨_, rfl⟩)))
  | encCbc => exact .inr (.inr (.inr (.inl ⟨_, rfl⟩)))
  | decCbc => exact .inr (.inr (.inr (.inl ⟨_, rfl⟩)))
  | cmdIllegal w => exact .inr (.inr (.inr (.inr rfl)))

/-- What one step of the port does: reset, one whole instruction, or nothing (R230, R236). -/
theorem portStep_cases (p : PortSignals) (s : State) :
    (p.rst = true ∧ portStep p s = .next s.applyReset) ∨
    (p.rst = false ∧ p.req = true ∧ portStep p s = exec (decodePort p.word) s) ∨
    (p.rst = false ∧ p.req = false ∧ portStep p s = .next s.idle) := by
  cases hr : p.rst <;> cases hq : p.req <;> simp [portStep, hr, hq]

/-- What one step of the machine does, by what the host has pending: nothing, the signals of its first action,
or a refusal of a bus access outside the spec (R57). -/
theorem step_cases (s : State) :
    (s.pending = [] ∧ step s = .next s.idle) ∨
    (∃ a rest p, s.pending = a :: rest ∧ a.signals (Config.baseAddress 0) = .ok p ∧
      step s = portStep p { s with pending := rest }) ∨
    (∃ b rest, s.pending = .bus b :: rest ∧ b.wellFormed (Config.baseAddress 0) = false ∧
      step s = .refused (.busAccessOutsideSpec b)) := by
  cases hp : s.pending with
  | nil => exact .inl ⟨rfl, by simp [step, stepAt, hp]⟩
  | cons a rest =>
    cases a with
    | port p => exact .inr (.inl ⟨_, rest, p, rfl, rfl, by simp [step, stepAt, hp, HostAction.signals]⟩)
    | bus b =>
      by_cases hw : b.wellFormed (Config.baseAddress 0) = true
      · exact .inr (.inl ⟨_, rest, b.signals (Config.baseAddress 0), rfl, by simp [HostAction.signals, hw],
          by simp [step, stepAt, hp, HostAction.signals, hw]⟩)
      · exact .inr (.inr ⟨b, rest, rfl, by simpa using hw,
          by simp [step, stepAt, hp, HostAction.signals, hw]⟩)

end Sys2Proof.Machine
end

