-- ==== Sys2Proof/Laws/PerInstr.lean ====
section
/-! SUPPORT. The family `TableRow`, one lemma per instruction: the encoded word carries the WE and IDX columns of
the opcode map (R73), and CMD.ILLEGAL's DATA is none of the four command words. -/

namespace Sys2Proof.Laws.TableRow

/-- The WE column of R73. -/
def we : Instr → Bool
  | .rd _ _ => false
  | .wrKey _ => true
  | .wrDin _ => true
  | .wrIv _ => true
  | .wrIgnDout _ => true
  | .wrIgnStatus _ => true
  | .wrIgnR6 _ => true
  | .wrIgnR7 _ => true
  | .encEcb => true
  | .decEcb => true
  | .encCbc => true
  | .decCbc => true
  | .cmdIllegal _ => true

/-- The IDX column of R73; a read's index is its operand. -/
def idx : Instr → RegIndex
  | .rd i _ => i
  | .wrKey _ => 0
  | .wrDin _ => 1
  | .wrIv _ => 2
  | .wrIgnDout _ => 3
  | .wrIgnStatus _ => 5
  | .wrIgnR6 _ => 6
  | .wrIgnR7 _ => 7
  | .encEcb => 4
  | .decEcb => 4
  | .encCbc => 4
  | .decCbc => 4
  | .cmdIllegal _ => 4

/-- The encoded word of a well-formed instruction stands in its own columns of the opcode map, and a command
word above 3 is there exactly for CMD.ILLEGAL. -/
def Statement (i : Instr) : Prop :=
  i.WellFormed → portWE (encode i) = we i ∧ portIdx (encode i) = idx i ∧
    (i.mnemonic = "CMD.ILLEGAL" → cmdReserved (portData (encode i)) ≠ 0)

theorem rd (i : RegIndex) (ignored : Word) : Statement (.rd i ignored) := by
  intro _; simp [encode, we, idx, Instr.mnemonic]
theorem wrKey (v : Word) : Statement (.wrKey v) := by
  intro _; simp [encode, we, idx, Instr.mnemonic]
theorem wrDin (v : Word) : Statement (.wrDin v) := by
  intro _; simp [encode, we, idx, Instr.mnemonic]
theorem wrIv (v : Word) : Statement (.wrIv v) := by
  intro _; simp [encode, we, idx, Instr.mnemonic]
theorem wrIgnDout (ignored : Word) : Statement (.wrIgnDout ignored) := by
  intro _; simp [encode, we, idx, Instr.mnemonic]
theorem wrIgnStatus (ignored : Word) : Statement (.wrIgnStatus ignored) := by
  intro _; simp [encode, we, idx, Instr.mnemonic]
theorem wrIgnR6 (ignored : Word) : Statement (.wrIgnR6 ignored) := by
  intro _; simp [encode, we, idx, Instr.mnemonic]
theorem wrIgnR7 (ignored : Word) : Statement (.wrIgnR7 ignored) := by
  intro _; simp [encode, we, idx, Instr.mnemonic]
theorem encEcb : Statement .encEcb := by
  intro _; simp [encode, we, idx, Instr.mnemonic]
theorem decEcb : Statement .decEcb := by
  intro _; simp [encode, we, idx, Instr.mnemonic]
theorem encCbc : Statement .encCbc := by
  intro _; simp [encode, we, idx, Instr.mnemonic]
theorem decCbc : Statement .decCbc := by
  intro _; simp [encode, we, idx, Instr.mnemonic]
theorem cmdIllegal (w : Word) : Statement (.cmdIllegal w) := by
  intro h
  have hw : cmdReserved w ≠ 0 := by simpa [Instr.WellFormed, Instr.wellFormed, cmdReserved] using h
  exact ⟨by simp [encode, we], by simp [encode, idx], fun _ => by simpa [encode] using hw⟩

end Sys2Proof.Laws.TableRow
end

