-- ==== Sys2Proof/Laws/Primitives.lean ====
section
/-! SUPPORT. The bits of the permutation primitive (R103), which later proofs use instead of unfolding it. -/

namespace Sys2Proof.Machine

theorem bitsValue_snoc (bits : List Bool) (b : Bool) :
    bitsValue (bits ++ [b]) = 2 * bitsValue bits + b.toNat := by
  simp [bitsValue]

/-- Bit `j` of a bit string's value is the `j`-th bit from the right. -/
theorem testBit_bitsValue (bits : List Bool) (j : Nat) (hj : j < bits.length) :
    (bitsValue bits).testBit j = bits[bits.length - 1 - j] := by
  induction bits using List.reverseRecOn generalizing j with
  | nil => simp at hj
  | append_singleton bits b ih =>
    rw [bitsValue_snoc]
    cases j with
    | zero => cases b <;> simp
    | succ j =>
      have hj' : j < bits.length := by simpa using hj
      have hhalf : (2 * bitsValue bits + b.toNat) / 2 = bitsValue bits := by cases b <;> simp; omega
      rw [Nat.testBit_succ, hhalf, ih j hj', List.getElem_append_left (by simp; omega)]
      congr 1; simp; omega

/-- R103: bit `j` of the output, counted from the least significant end, is the input bit that table entry
`m - 1 - j` (0-based) names. -/
theorem getLsbD_perm {n m : Nat} (T : Vector Nat m) (v : BitVec n) (j : Nat) (hj : j < m) :
    (perm T v).getLsbD j = v.getLsbD (n - T[m - 1 - j]) := by
  have hlen : (T.toList.map (pos v)).length = m := by simp
  rw [perm, BitVec.getLsbD_ofNat, testBit_bitsValue _ _ (by simpa using hj)]
  simp [hj, pos]

end Sys2Proof.Machine
end

