-- ==== Sys2Proof/Laws/RoundCore.lean ====
section
/-! SUPPORT. The shapes of the round core: the bits of the concatenations it makes, how splitting undoes the
preoutput, and the lengths of the key lists. -/

namespace Sys2Proof.Machine

/-- Bit `i` of `R ‖ L` (R143). -/
theorem getLsbD_preoutput (h : Halves) (i : Nat) :
    (preoutput h).getLsbD i = if i < 32 then h.l.getLsbD i else h.r.getLsbD (i - 32) := by
  change BitVec.getLsbD (w := 32 + 32) (h.r ++ h.l) i = _
  rw [BitVec.getLsbD_append]

/-- Splitting the preoutput gives the halves in swapped places (R144). -/
@[simp] theorem splitHalves_preoutput (h : Halves) : splitHalves (preoutput h) = ⟨h.r, h.l⟩ := by
  simp only [splitHalves, Halves.mk.injEq]
  constructor <;> apply BitVec.eq_of_getLsbD_eq <;> intro i hi <;>
    simp only [BitVec.getLsbD_extractLsb', getLsbD_preoutput] <;> simp [hi]

/-- The preoutput of split halves, swapped back, is the value that was split. -/
@[simp] theorem preoutput_swap_splitHalves (x : Word) :
    preoutput ⟨(splitHalves x).r, (splitHalves x).l⟩ = x := by
  apply BitVec.eq_of_getLsbD_eq
  intro i hi
  rw [getLsbD_preoutput]
  by_cases h : i < 32
  · simp only [h, if_true, splitHalves, BitVec.getLsbD_extractLsb']; simp
  · simp only [h, if_false, splitHalves, BitVec.getLsbD_extractLsb']
    simp [show i - 32 < 32 by omega, show 32 + (i - 32) = i by omega]

theorem length_keyHalvesFrom (ss : List Nat) (c d : KeyHalf) : (keyHalvesFrom ss c d).length = ss.length := by
  induction ss generalizing c d with
  | nil => rfl
  | cons s rest ih => simp [keyHalvesFrom, ih]

/-- There are 16 round keys (R6, R135). -/
@[simp] theorem length_keySchedule (key : Word) : (keySchedule key).length = 16 := by
  simp [keySchedule, keyHalves, length_keyHalvesFrom, shiftSchedule]

@[simp] theorem length_roundKeys (key : Word) (dir : Bool) : (roundKeys key dir).length = 16 := by
  cases dir <;> simp [roundKeys]

end Sys2Proof.Machine
end

