-- ==== Sys2Proof/Laws/Run.lean ====
section
/-! SUPPORT. Running the machine over a history of port signals: each action completes,
and a run over `p :: rest` is the port's step on `p` and then the run over `rest`. -/

namespace Sys2Proof.Machine

/-- A step on pending signals is the port's step (R59). -/
theorem step_port (s : State) (p : PortSignals) (rest : List HostAction) :
    step { s with pending := .port p :: rest } = portStep p { s with pending := rest } := rfl

/-- The port's step always completes, whatever the signals, and leaves what is still pending (R205, R242). -/
theorem portStep_completes (p : PortSignals) (s : State) :
    ∃ s', portStep p s = .next s' ∧ s'.pending = s.pending := by
  obtain ⟨-, h⟩ | ⟨-, -, h⟩ | ⟨-, -, h⟩ := portStep_cases p s
  · exact ⟨_, h, rfl⟩
  · obtain ⟨v, hv⟩ | ⟨v, hv | hv | hv⟩ | hv | ⟨r, hv⟩ | hv := exec_cases (decodePort p.word) s <;>
      exact ⟨_, h.trans hv, rfl⟩
  · exact ⟨_, h, rfl⟩

/-- The first step of a run, of any machine. -/
theorem coreRun_succ (M : Host.Core) (n : Nat) {s s' : M.State} (h : M.step s = .next s') :
    Host.Core.run M (n + 1) s = Host.Core.run M n s' := by
  rw [Host.Core.run, h]

/-- A run of no steps. -/
@[simp] theorem run_zero (s : State) : run 0 s = .next s := rfl

/-- The first step of a run. -/
theorem run_succ (n : Nat) {s s' : State} (h : step s = .next s') : run (n + 1) s = run n s' :=
  coreRun_succ core n h

/-- A run over a history, one signal record at a time: what the port's step leaves is driven by the rest. -/
theorem run_driven_cons (p : PortSignals) (rest : List PortSignals) {s s' : State}
    (h : portStep p (s.driven rest) = .next s') :
    run (p :: rest).length (s.driven (p :: rest)) = run rest.length s' :=
  run_succ _ h

end Sys2Proof.Machine
end

