-- ==== Sys2Proof/Tests/Slice0.lean ====
section
/-! SUPPORT. The model's own tests, every expected value taken from spec/ (the rule or the row of
spec/95_test_vectors.md it comes from is named), and for every obligation with hypotheses a concrete witness that
meets them. -/

namespace Sys2Proof.Tests

open Sys2Proof Sys2Proof.Machine

/-! ### Well-formedness (R73) -/

/-- R73: the words 0x0 to 0x3 are no CMD.ILLEGAL. -/
theorem test_illformed_command_word : Instr.wellFormed (.cmdIllegal 3) = false := by decide
theorem test_wellformed_command_word : Instr.wellFormed (.cmdIllegal 4) = true := by decide

/-! ### Decoding: words written out from the opcode map (R73) and 95 §2.9 -/

theorem test_decode_rd : decodePort 0x50000000000000000 = .rd 5 0 := by decide
theorem test_decode_rd_ignores_data : decodePort 0x7FFFFFFFFFFFFFFFF = .rd 7 0xFFFFFFFFFFFFFFFF := by decide
theorem test_decode_wrKey : decodePort 0x8133457799BBCDFF1 = .wrKey 0x133457799BBCDFF1 := by decide
theorem test_decode_wrDin : decodePort 0x90123456789ABCDEF = .wrDin 0x0123456789ABCDEF := by decide
theorem test_decode_wrIv : decodePort 0xAFFFFFFFFFFFFFFFF = .wrIv 0xFFFFFFFFFFFFFFFF := by decide
theorem test_decode_wrIgnDout : decodePort 0xB1111111111111111 = .wrIgnDout 0x1111111111111111 := by decide
theorem test_decode_wrIgnStatus : decodePort 0xD00000000000000FF = .wrIgnStatus 0xFF := by decide
theorem test_decode_wrIgnR6 : decodePort 0xE0000000000001234 = .wrIgnR6 0x1234 := by decide
theorem test_decode_wrIgnR7 : decodePort 0xF0000000000000000 = .wrIgnR7 0 := by decide
theorem test_decode_encEcb : decodePort 0xC0000000000000000 = .encEcb := by decide
theorem test_decode_decEcb : decodePort 0xC0000000000000001 = .decEcb := by decide
theorem test_decode_encCbc : decodePort 0xC0000000000000002 = .encCbc := by decide
theorem test_decode_decCbc : decodePort 0xC0000000000000003 = .decCbc := by decide
theorem test_decode_cmdIllegal : decodePort 0xC0000000000000004 = .cmdIllegal 4 := by decide
/-- R203: only the top reserved bit set. -/
theorem test_decode_cmdIllegal_top : decodePort 0xC8000000000000000 = .cmdIllegal 0x8000000000000000 := by decide
/-- R72: the same bits assembled one by one, `1 100` then 62 zeros, MODE 1, DIR 0. -/
theorem test_decode_bits : decodePort (1#1 ++ 4#3 ++ 0#62 ++ 1#1 ++ 0#1 : BitVec 68) = .encCbc := by decide
/-- R77: bit 68 belongs to no transaction. -/
theorem test_decode_too_wide : decodeTableWord 72 0x100000000000000000 = none := by decide
theorem test_encode_rd : encode (.rd 3 0) = 0x30000000000000000 := by decide
theorem test_encode_wrIv : encode (.wrIv 0x1234567890ABCDEF) = 0xA1234567890ABCDEF := by decide
theorem test_opcode_table_size : opcodeTable.length = 13 := by decide

/-! ### The datapath (spec/95_test_vectors.md §2.2 to §2.8) -/

theorem test_permIP : permIP 0x0123456789ABCDEF = 0xCC00CCFFF0AAF0AA := by decide
theorem test_permIP_one_bit : permIP 0x0000000000000040 = 0x8000000000000000 := by decide
theorem test_permFP : permFP 0x0A4CD99543423234 = 0x85E813540F0AB405 := by decide
theorem test_expandE : expandE 0xF0AAF0AA = 0x7A15557A1555 := by decide
theorem test_expandE_last_bit : expandE 0x00000001 = 0x800000000002 := by decide
theorem test_permP : permP 0x5C82B597 = 0x234AA9BB := by decide
theorem test_sbox : sboxAll 0x965A847DCBD6 = 0x8AFE657E := by decide +kernel
theorem test_sbox_group8 : sboxAll 0x000000000001 = 0xEFA72C41 := by decide +kernel
theorem test_pc1 : pc1 0x133457799BBCDFF1 = 0xF0CCAAF556678F := by decide
theorem test_keyC0 : keyC0 0x133457799BBCDFF1 = 0xF0CCAAF := by decide
theorem test_pc2 : pc2 0xE19955FAACCF1E = 0x1B02EFFC7072 := by decide
theorem test_rotl28_wraps : rotl28 0xC000001 2 = 0x0000007 := by decide
/-- 95 §2.5, key AABB09182736CCDD: K1, K9 and K16. -/
theorem test_keySchedule :
    ((keySchedule 0xAABB09182736CCDD).getD 0 0, (keySchedule 0xAABB09182736CCDD).getD 8 0,
      (keySchedule 0xAABB09182736CCDD).getD 15 0) = (0x194CD072DE8C, 0x84BB4473DCCC, 0x181C5D75C66D) := by
  decide +kernel
theorem test_roundF : roundF 0xEF4A6544 0x79AED9DBC9E5 = 0x3CAB87A3 := by decide +kernel
/-- 95 §2.7, round 3 of S1. -/
theorem test_feistelRound :
    feistelRound ⟨0xEF4A6544, 0xCC017709⟩ 0x55FC8A42CF99 = ⟨0xCC017709, 0xA25C0BF4⟩ := by decide +kernel
/-- 95 §2.8, M13. -/
theorem test_ecbE : ecbE 0x123456ABCD132536 0xAABB09182736CCDD = 0xC0B7A8D05F3A829C := by decide +kernel
/-- 95 §2.8, M12. -/
theorem test_ecbD : ecbD 0x1000000000000001 0x3000000000000000 = 0x36B06B4061B82732 := by decide +kernel
/-- 95 §2.8, M23. -/
theorem test_cbcE : cbcE 0x123456ABCD132536 0xAABB09182736CCDD 0x1111111111111111 = 0x915843061575DE6C := by
  decide +kernel
/-- 95 §2.8, M24. -/
theorem test_cbcD : cbcD 0x0123456789ABCDEF 0x133457799BBCDFF1 0x1111111111111111 = 0xFF1E6D03F1A18229 := by
  decide +kernel

/-! ### One step on a small state -/

/-- The engine in the middle of 95 §2.9 (after row 9). -/
def midEngine : Engine := ⟨0x133457799BBCDFF1, 0x0123456789ABCDEF, 0x1234567890ABCDEF, 0x85E813540F0AB405, true, 0⟩

/-- That engine with one transaction offered. -/
def offered (w : Nat) : State := (State.mk midEngine [] .noAck).withFetchWord 72 w

/-- What one step leaves of it: the engine and the answer. -/
def after (w : Nat) : Option (Engine × PortAnswer) := (stateOf (step (offered w))).map fun s => (s.engine, s.answer)

/-- 95 §2.9, row 10. -/
theorem test_rd_status : after 0x50000000000000000 = some (midEngine, .ackRead 0x1) := by decide
theorem test_rd_reserved : after 0x60000000000000000 = some (midEngine, .ackRead 0) := by decide
theorem test_wrKey : after 0x80000000000000005 = some ({ midEngine with key := 5 }, .ackWrite) := by decide
theorem test_wrDin : after 0x90000000000000005 = some ({ midEngine with din := 5 }, .ackWrite) := by decide
theorem test_wrIv : after 0xA0000000000000005 = some ({ midEngine with iv := 5 }, .ackWrite) := by decide
theorem test_wrIgnDout : after 0xB1111111111111111 = some (midEngine, .ackWrite) := by decide
theorem test_wrIgnStatus : after 0xD00000000000000FF = some (midEngine, .ackWrite) := by decide
theorem test_wrIgnR6 : after 0xE0000000000001234 = some (midEngine, .ackWrite) := by decide
theorem test_wrIgnR7 : after 0xF0000000000001234 = some (midEngine, .ackWrite) := by decide
/-- 95 §2.9, row 11. -/
theorem test_cmdIllegal :
    after 0xC0000000000000004 = some ({ midEngine with valid := false, err := 3 }, .ackWrite) := by decide
/-- 95 §2.9, row 3: ENC.ECB straight after reset. -/
theorem test_encEcb_after_reset :
    stateOf (step (State.reset.withFetchWord 72 0xC0000000000000000)) =
      some ⟨⟨0, 0, 0, 0x8CA64DE9C1B123A7, true, 0⟩, [], .ackWrite⟩ := by decide +kernel
/-- 95 §2.9, row 18. -/
theorem test_decEcb :
    stateOf (exec .decEcb ⟨⟨0x133457799BBCDFF1, 0x85E813540F0AB405, 0, 0, false, 3⟩, [], .noAck⟩) =
      some ⟨⟨0x133457799BBCDFF1, 0x85E813540F0AB405, 0, 0x0123456789ABCDEF, true, 0⟩, [], .ackWrite⟩ := by
  decide +kernel
/-- 95 §2.9, row 23. -/
theorem test_encCbc :
    stateOf (exec .encCbc ⟨⟨0x133457799BBCDFF1, 0x0123456789ABCDEF, 0xFFFFFFFFFFFFFFFF, 0, true, 0⟩, [], .noAck⟩) =
      some ⟨⟨0x133457799BBCDFF1, 0x0123456789ABCDEF, 0xFFFFFFFFFFFFFFFF, 0x4AB65B3D4B061518, true, 0⟩, [], .ackWrite⟩ := by
  decide +kernel
/-- 95 §2.9, row 27. -/
theorem test_decCbc :
    stateOf (exec .decCbc ⟨⟨0x133457799BBCDFF1, 0x4AB65B3D4B061518, 0xFFFFFFFFFFFFFFFF, 0, true, 0⟩, [], .noAck⟩) =
      some ⟨⟨0x133457799BBCDFF1, 0x4AB65B3D4B061518, 0xFFFFFFFFFFFFFFFF, 0x0123456789ABCDEF, true, 0⟩, [], .ackWrite⟩ := by
  decide +kernel
/-- R230, R233: a CMD write offered while `rst` is 1 has no effect. -/
theorem test_reset_beats_command :
    stateOf (step ⟨midEngine, [.port ⟨true, true, true, 4, 0⟩], .ackWrite⟩) = some State.reset := by decide
/-- R52: `req = 0` offers nothing. -/
theorem test_no_request :
    stateOf (step ⟨midEngine, [.port ⟨false, false, true, 0, 5⟩], .ackWrite⟩) = some ⟨midEngine, [], .noAck⟩ := by decide
/-- R231: reset from the power-on state, whose registers hold any value. -/
theorem test_reset_from_powerOn :
    step ⟨Engine.powerOn, [.port .resetPulse], .noAck⟩ = .next State.reset := rfl

/-! ### The bus (R56), the codec, the boundary operations and host programs (95 §2.1, §2.10, §3) -/

/-- R56: byte 0 holds DES positions 1 to 8. -/
theorem test_slotBytes : slotBytes 0x133457799BBCDFF1 = [0x13, 0x34, 0x57, 0x79, 0x9B, 0xBC, 0xDF, 0xF1] := by decide
theorem test_bus_width_refused : (BusAccess.mk true 0 4 [0, 0, 0, 5]).wellFormed 0 = false := by decide
theorem test_bus_last_slot : (BusAccess.mk false 0x138 8 []).wellFormed 0x100 = true := by decide
theorem test_bus_past_last_slot : (BusAccess.mk false 0x140 8 []).wellFormed 0x100 = false := by decide
theorem test_hexDecode_mixed_case : hexDecode 64 "0123456789aBcDeF".toList = .ok 0x0123456789ABCDEF := by decide
theorem test_hexDecode_17_digits : hexDecode 64 "0123456789ABCDEF0".toList = .error .invalidLength := by decide
theorem test_hexDecode_empty : hexDecode 64 [] = .error .invalidLength := by decide
theorem test_hexDecode_trailing_blank : hexDecode 64 "0123456789ABCDEF ".toList = .error .invalidEncoding := by decide
theorem test_hexEncode_pads : hexEncode 64 0x0000000000000ABC = "0000000000000ABC".toList := by decide
theorem test_encryptECB_key_length :
    encryptECB "0123456789ABCDEF".toList "133457799BBCDFF".toList midEngine =
      ⟨.error ⟨.invalidLength, .key⟩, midEngine⟩ := by decide
theorem test_encryptCBC_data_first :
    encryptCBC "XYZ".toList "12".toList "0123456789ABCDEF".toList midEngine =
      ⟨.error ⟨.invalidEncoding, .data⟩, midEngine⟩ := by decide
theorem test_encryptCBC_key_before_iv :
    encryptCBC "0123456789ABCDEF".toList "12".toList "XYZ".toList midEngine =
      ⟨.error ⟨.invalidLength, .key⟩, midEngine⟩ := by decide
/-- 95 §2.10, the `decryptECB` row and the note under the table. -/
theorem test_decryptECB_leaves :
    decryptECB "85e813540f0ab405".toList "133457799bbcdff1".toList midEngine =
      ⟨.ok "0123456789ABCDEF".toList,
        ⟨0x133457799BBCDFF1, 0x85E813540F0AB405, 0x1234567890ABCDEF, 0x0123456789ABCDEF, true, 0⟩⟩ := by
  decide +kernel
/-- 95 program P1, statements 2 to 4, with a comment and a blank line. -/
theorem test_assemble :
    assemble "WR DIN, 0x0123456789ABCDEF ; plaintext\nENC.ECB\n\nRD STATUS\nRESET\n".toList =
      .ok [.port (.ofWord 0x90123456789ABCDEF), .port (.ofWord 0xC0000000000000000),
        .port (.ofWord 0x50000000000000000), .port .resetPulse] := by decide
theorem test_assemble_17_digits : assemble "WR #6, 0x00000000000000001\n".toList = .error .immediateTooLong := by decide

/-! ### Witnesses: for each obligation with hypotheses, values that meet them together -/

theorem witness_DecodeOfEncodeIsTheInstruction : (Instr.cmdIllegal 0xFFFFFFFFFFFFFFFF).WellFormed := by decide

theorem witness_DecodingByFields : cmdReserved 4 ≠ 0 ∧ cmdReserved 3 = 0 := by decide

theorem witness_ReservedCommandBitsAreRejected :
    (0x8000000000000000 : Word).extractLsb' 2 62 ≠ 0 ∧ (3 : Word).extractLsb' 2 62 = 0 := by decide

theorem witness_StepRunsTheDecodedInstruction :
    (offered 0x80000000000000005).pending = .port (.ofWord 0x80000000000000005) :: [] ∧
    (PortSignals.ofWord 0x80000000000000005).rst = false ∧ (PortSignals.ofWord 0x80000000000000005).req = true := by decide
theorem witness_StepRunsTheDecodedInstruction_idle :
    (State.mk midEngine [.port ⟨false, false, true, 4, 0⟩] .noAck).pending = .port ⟨false, false, true, 4, 0⟩ :: [] ∧
    (PortSignals.mk false false true 4 0).rst = false ∧ (PortSignals.mk false false true 4 0).req = false ∧
    State.reset.pending = [] := by decide

theorem witness_ResetZeroesEveryRegister :
    (State.mk midEngine [.port ⟨true, true, true, 4, 0⟩] .noAck).pending = .port ⟨true, true, true, 4, 0⟩ :: [] ∧
    (PortSignals.mk true true true 4 0).rst = true := by decide

theorem witness_StatusReadLayout : (0 : Nat) < 64 ∧ (7 : Nat) < 64 ∧ (63 : Nat) < 64 := by decide

/-- Two keys that differ in all eight parity positions and nowhere else: also the premise of KeyScheduleLaws. -/
theorem witness_EncEcbCompletes_parity :
    (0x133457799BBCDFF1 : Word) ≠ 0x123556789ABDDEF0 ∧
    ∀ p : Fin 65, 1 ≤ p.val → p.val ≤ 64 → p.val % 8 ≠ 0 →
      pos (0x133457799BBCDFF1 : Word) p.val = pos (0x123556789ABDDEF0 : Word) p.val := by decide

theorem witness_CmdIllegalCompletes : cmdReserved 0x4 ≠ 0 := by decide

/-- Two states that differ in IV, DOUT and the flags, for an ECB word; and in DOUT and the flags, for a CBC word. -/
theorem witness_CommandDependsOnlyOnItsOperands :
    (cmdReserved 1 = 0 ∧ midEngine.key = ({ midEngine with iv := 0, dout := 0, valid := false } : Engine).key ∧
      midEngine.din = ({ midEngine with iv := 0, dout := 0, valid := false } : Engine).din ∧ cmdMode 1 = false) ∧
    (cmdReserved 3 = 0 ∧ cmdMode 3 = true ∧ midEngine.iv = ({ midEngine with dout := 0, err := 3 } : Engine).iv) := by
  decide

theorem witness_RepeatedTransactionChangesNothing :
    exec (.cmdIllegal 4) (offered 0) =
      .next ⟨{ midEngine with valid := false, err := 3 }, [.port (.ofWord 0)], .ackWrite⟩ := rfl

theorem witness_LegalCommandRecovers :
    exec (.cmdIllegal 4) ⟨midEngine, [], .noAck⟩ =
      .next ⟨{ midEngine with valid := false, err := 3 }, [], .ackWrite⟩ := rfl

theorem midEngine_statusLegal : midEngine.StatusLegal := .inl ⟨rfl, rfl⟩

theorem witness_StepKeepsStatusLegal :
    (offered 0xC0000000000000004).engine.StatusLegal ∧
    step (offered 0xC0000000000000004) = .next ⟨{ midEngine with valid := false, err := 3 }, [], .ackWrite⟩ :=
  ⟨midEngine_statusLegal, rfl⟩

/-- A step that changes VALID and ERR (an illegal command). -/
theorem witness_OnlyCommandsAndResetWriteResults :
    step (offered 0xC0000000000000004) = .next ⟨{ midEngine with valid := false, err := 3 }, [], .ackWrite⟩ ∧
    ({ midEngine with valid := false, err := 3 } : Engine).valid ≠ (offered 0xC0000000000000004).engine.valid :=
  ⟨rfl, by decide⟩
/-- A step that changes DOUT (reset). -/
theorem witness_OnlyCommandsAndResetWriteResults_dout :
    step ⟨midEngine, [.port .resetPulse], .noAck⟩ = .next State.reset ∧ State.reset.engine.dout ≠ midEngine.dout :=
  ⟨rfl, by decide⟩

theorem witness_OnlyOwnWriteAndResetChangeOperands :
    step (offered 0x80000000000000005) = .next ⟨{ midEngine with key := 5 }, [], .ackWrite⟩ ∧
    ({ midEngine with key := 5 } : Engine).portRead 0 ≠ midEngine.portRead 0 ∧
    step (offered 0xA0000000000000005) = .next ⟨{ midEngine with iv := 5 }, [], .ackWrite⟩ ∧
    ({ midEngine with iv := 5 } : Engine).portRead 2 ≠ midEngine.portRead 2 :=
  ⟨rfl, by decide, rfl, by decide⟩

theorem witness_StatusReportsTheLastCommand : State.reset.engine = Engine.reset := rfl

/-- A legal command, then an illegal one, a write and a read: DOUT still holds the legal one's result. -/
theorem witness_DoutHoldsTheLastLegalResult :
    (PortSignals.ofWord 0xC0000000000000002).commandWord = some 2 ∧ legalCommand 2 = true ∧
    ∀ q ∈ [PortSignals.ofWord 0xC0000000000000004, .ofWord 0x80000000000000005, .ofWord 0x30000000000000000],
      q.rst = false ∧ (q.commandWord = none ∨ q.commandWord = some 4) ∧ legalCommand 4 = false := by decide

theorem witness_ActionsInSpecNeverStop :
    ∀ a ∈ [HostAction.port .resetPulse, .bus ⟨false, Config.baseAddress 0 + 56, 8, []⟩], a.InSpec := by
  simp [HostAction.InSpec, BusAccess.wellFormed]

theorem witness_BusSlotIsBigEndian : (0 : Nat) < 8 ∧ (7 : Nat) < 8 := by decide

/-- Too narrow; between two slots; just past the last slot. -/
theorem witness_OtherBusAccessesAreRefused :
    (BusAccess.mk true (Config.baseAddress 0) 4 []).width ≠ 8 ∧
    (∀ idx : RegIndex, Config.baseAddress 0 + 1 ≠ Config.baseAddress 0 + 8 * idx.toNat) ∧
    (∀ idx : RegIndex, Config.baseAddress 0 + 64 ≠ Config.baseAddress 0 + 8 * idx.toNat) := by
  refine ⟨by decide, fun idx => by omega, fun idx => ?_⟩
  have := idx.isLt
  omega

theorem witness_EnginesAreIndependent :
    (0 : Fin 2) ≠ 1 ∧
    Platform.step (0 : Fin 2) #v[offered 0x80000000000000005, offered 0x90000000000000005] =
      .next #v[⟨{ midEngine with key := 5 }, [], .ackWrite⟩, offered 0x90000000000000005] ∧
    Platform.step (1 : Fin 2) #v[offered 0x80000000000000005, offered 0x90000000000000005] =
      .next #v[offered 0x80000000000000005, ⟨{ midEngine with din := 5 }, [], .ackWrite⟩] :=
  ⟨by decide, rfl, rfl⟩

theorem witness_upper_digits : ∀ c ∈ "0123456789ABCDE".toList, hexDigit c ≠ none :=
  fun c hc h => absurd ((hexDigits_eq_none_iff _).2 ⟨c, hc, h⟩) (by decide)

theorem witness_lower_digits : ∀ c ∈ "0123456789abcdef".toList, hexDigit c ≠ none :=
  fun c hc h => absurd ((hexDigits_eq_none_iff _).2 ⟨c, hc, h⟩) (by decide)

theorem witness_HexDecodeContract :
    64 % 4 = 0 ∧ (∃ c ∈ "0123456789ABCDEG".toList, hexDigit c = none) ∧
    ((∀ c ∈ "0123456789ABCDE".toList, hexDigit c ≠ none) ∧ "0123456789ABCDE".toList.length ≠ 64 / 4) ∧
    ((∀ c ∈ "0123456789abcdef".toList, hexDigit c ≠ none) ∧ "0123456789abcdef".toList.length = 64 / 4) :=
  ⟨rfl, (hexDigits_eq_none_iff _).1 (by decide), ⟨witness_upper_digits, by decide⟩, witness_lower_digits, by decide⟩

theorem witness_HexCodecIsInvertible :
    64 % 4 = 0 ∧ hexDecode 64 "0123456789ABCDEF".toList = .ok 0x0123456789ABCDEF ∧
    upperCase "0123456789ABCDEF".toList = true := by decide

theorem witness_BoundaryEcbContract :
    hexDecode 64 "0123456789ABCDEG".toList = .error .invalidEncoding ∧
    hexDecode 64 "0123456789ABCDEF".toList = .ok 0x0123456789ABCDEF ∧
    hexDecode 64 "133457799BBCDFF".toList = .error .invalidLength ∧
    hexDecode 64 "133457799BBCDFF1".toList = .ok 0x133457799BBCDFF1 := by decide

/-- The operands of each clause: `G` fails, a 15-digit string fails, the others decode. -/
theorem witness_BoundaryCbcContract :
    hexDecode 64 "0x00000000000000".toList = .error .invalidEncoding ∧
    hexDecode 64 "00000000000000000".toList = .error .invalidLength ∧
    hexDecode 64 "4E6F772069732074".toList = .ok 0x4E6F772069732074 ∧
    hexDecode 64 "0123456789ABCDEF".toList = .ok 0x0123456789ABCDEF ∧
    hexDecode 64 "1234567890ABCDEF".toList = .ok 0x1234567890ABCDEF := by decide

theorem witness_BoundaryErrorLeavesTheEngine :
    (encryptECB [] [] midEngine).result = .error ⟨.invalidLength, .data⟩ ∧
    (decryptCBC "0123456789ABCDEF".toList "0123456789ABCDEF".toList "G".toList midEngine).result =
      .error ⟨.invalidEncoding, .iv⟩ := by decide

theorem witness_BoundaryRefinesItsTransactions :
    hexDecode 64 "4E6F772069732074".toList = .ok 0x4E6F772069732074 ∧
    hexDecode 64 "0123456789ABCDEF".toList = .ok 0x0123456789ABCDEF ∧
    hexDecode 64 "1234567890ABCDEF".toList = .ok 0x1234567890ABCDEF := by decide

/-- The same operands, in lower case, for the round trip. -/
theorem witness_BoundaryRoundTrip :
    hexDecode 64 "4e6f772069732074".toList = .ok 0x4E6F772069732074 ∧
    hexDecode 64 "0123456789abcdef".toList = .ok 0x0123456789ABCDEF ∧
    hexDecode 64 "1234567890abcdef".toList = .ok 0x1234567890ABCDEF := by decide

/-- 1, 16 and 17 digits, and none. -/
theorem witness_ImmediatesHaveOneToSixteenDigits :
    hexDigits ['F'] = some [15] ∧
    (hexDigits (List.replicate 16 'F')).isSome = true ∧ (List.replicate 16 'F').length ≤ 16 ∧
    (hexDigits (List.replicate 17 'F')).isSome = true ∧ 16 < (List.replicate 17 'F').length ∧
    hexDigits [] = some [] := by decide

/-- A table that repeats positions, at its first and last output. -/
theorem witness_PermutationLaws :
    (∀ p ∈ tableE.toList, 1 ≤ p ∧ p ≤ 32) ∧ 1 ≤ 1 ∧ 48 ≤ 48 := by decide

theorem witness_KeyScheduleLaws : (0 : Nat) < 16 ∧ (15 : Nat) < 16 ∧ (47 : Nat) < 48 := by decide

theorem witness_WeakKeys :
    (0x1F1F1F1F0E0E0E0E : Word) ∈
      ([0x0101010101010101, 0xFEFEFEFEFEFEFEFE, 0xE0E0E0E0F1F1F1F1, 0x1F1F1F1F0E0E0E0E] : List Word) := by decide

theorem witness_RoundFunctionCorners :
    expandE 0x00000000 ^^^ 0xFFFFFFFFFFFF = expandE 0xFFFFFFFF ^^^ 0x000000000000 := by decide +kernel

theorem witness_LastSwapIsUndone :
    roundKeys 0x133457799BBCDFF1 false = (roundKeys 0x133457799BBCDFF1 false).take 15 ++ [0xCB3D8B0E17F5] := by
  decide +kernel

theorem witness_ModeLaws : (0x0000000000000000 : Word) ≠ 0xFFFFFFFFFFFFFFFF := by decide

end Sys2Proof.Tests
end

/-! PROOFS. The engine's registers under the port's signals (spec/10_state.md): what a step and a run over a
history do to the engine, as a function of the signals alone, and the statements about its six registers. -/

namespace Sys2Proof.Machine

/-! ### An instruction decoded from a write -/

/-- The instruction of a CMD write is `ExecuteCommand` of its DATA (R73, R165). -/
theorem exec_decodeCommand (w : Word) (s : State) :
    exec (decodeCommand w) s = .next (s.ackWrite (s.engine.executeCommand w)) := by
  by_cases h : cmdReserved w = 0
  · rw [executeCommand_legal h]
    obtain rfl | rfl | rfl | rfl := (cmdReserved_eq_zero_iff w).1 h <;> rfl
  · rw [executeCommand_illegal h]
    have hw : ¬ (w = 0 ∨ w = 1 ∨ w = 2 ∨ w = 3) := mt (cmdReserved_eq_zero_iff w).2 h
    push Not at hw
    obtain ⟨h0, h1, h2, h3⟩ := hw
    simp only [decodeCommand, h0, h1, h2, h3, if_false]
    rfl

/-- The instruction of a write is `PortWrite` of its index and DATA, and the write completes (R54, R71). -/
theorem exec_decodeWrite (idx : RegIndex) (v : Word) (s : State) :
    exec (decodeWrite idx v) s = .next (s.ackWrite (s.engine.portWrite idx v)) := by
  obtain rfl | rfl | rfl | rfl | rfl | rfl | rfl | rfl := regIndex_cases idx
  case inr.inr.inr.inr.inl => exact exec_decodeCommand v s
  all_goals rfl

/-! ### What the signals of one step write or command -/

theorem PortSignals.commandWord_eq (p : PortSignals) :
    p.commandWord = if p.rst = false ∧ p.req = true ∧ p.we = true ∧ p.idx = 4 then some p.wdata else none := by
  cases hr : p.rst <;> cases hq : p.req <;> simp [commandWord, accepted, word, hr, hq]

theorem PortSignals.commandWord_eq_some_iff {p : PortSignals} {w : Word} :
    p.commandWord = some w ↔
      (p.rst = false ∧ p.req = true ∧ p.we = true ∧ p.idx = 4) ∧ p.wdata = w := by
  simp [commandWord_eq]

theorem PortSignals.rst_of_commandWord {p : PortSignals} {w : Word} (h : p.commandWord = some w) :
    p.rst = false := (commandWord_eq_some_iff.1 h).1.1

/-- One step of the history that R27 folds. -/
theorem lastCommand_cons (p : PortSignals) (h : List PortSignals) (last : Option Word) :
    lastCommand (p :: h) last = lastCommand h (if p.rst then none else p.commandWord.or last) := by
  cases hr : p.rst <;> cases hc : p.commandWord <;> simp [lastCommand, hr, hc]

/-- One step of the history that R62 folds. -/
theorem lastWritten_cons (x : RegIndex) (p : PortSignals) (h : List PortSignals) (v : Word) :
    lastWritten x (p :: h) v =
      lastWritten x h
        (if p.rst then 0 else if p.req = true ∧ p.we = true ∧ p.idx = x then p.wdata else v) := by
  cases hr : p.rst <;> cases hq : p.req <;>
    simp [lastWritten, PortSignals.accepted, PortSignals.word, hr, hq, apply_ite (lastWritten x h)]

/-! ### The engine under the signals of one step -/

/-- The registers one step of the port leaves: reset wins (R230), an accepted write is `PortWrite` (R54), and
without one no register changes. `portStep_drive` ties it to the machine. -/
def Engine.drive (e : Engine) (p : PortSignals) : Engine :=
  if p.rst then Engine.reset
  else if p.req && p.we then e.portWrite p.idx p.wdata
  else e

/-- A step of the port completes, leaves the engine that `drive` gives, and takes nothing off the pending list. -/
theorem portStep_drive (p : PortSignals) (s : State) :
    ∃ s', portStep p s = .next s' ∧ s'.engine = s.engine.drive p ∧ s'.pending = s.pending := by
  obtain ⟨hr, h⟩ | ⟨hr, hq, h⟩ | ⟨hr, hq, h⟩ := portStep_cases p s
  · exact ⟨_, h, by simp [Engine.drive, hr], rfl⟩
  · cases hw : p.we with
    | true =>
      refine ⟨s.ackWrite (s.engine.portWrite p.idx p.wdata), ?_, by simp [Engine.drive, hr, hq, hw], rfl⟩
      rw [h, PortSignals.word, hw, decodePort_write, exec_decodeWrite]
    | false =>
      refine ⟨s.ackRead (s.engine.portRead p.idx), ?_, by simp [Engine.drive, hw, hr], rfl⟩
      rw [h, PortSignals.word, hw, decodePort_read]
      rfl
  · exact ⟨_, h, by simp [Engine.drive, hr, hq], rfl⟩

/-- What a step of the machine does to the engine: nothing, or what the signals of the first pending action do. -/
theorem step_engine {s s' : State} (h : step s = .next s') :
    s'.engine = s.engine ∨
    ∃ a rest p, s.pending = a :: rest ∧ a.signals (Config.baseAddress 0) = .ok p ∧
      s'.engine = s.engine.drive p := by
  obtain ⟨-, hs⟩ | ⟨a, rest, p, hpend, hsig, hs⟩ | ⟨b, rest, -, -, hs⟩ := step_cases s
  · cases hs.symm.trans h
    exact .inl rfl
  · obtain ⟨t, ht, hengine, -⟩ := portStep_drive p { s with pending := rest }
    cases (hs.trans ht).symm.trans h
    exact .inr ⟨a, rest, p, hpend, hsig, hengine⟩
  · cases hs.symm.trans h

/-- A run over a history completes and leaves the engine that its signals give, one after the other. -/
theorem run_driven (h : List PortSignals) (s : State) :
    ∃ s', run h.length (s.driven h) = .next s' ∧ s'.engine = h.foldl Engine.drive s.engine := by
  induction h generalizing s with
  | nil => exact ⟨_, run_zero _, rfl⟩
  | cons p rest ih =>
    obtain ⟨t, ht, hengine, hpending⟩ := portStep_drive p (s.driven rest)
    have htdriven : t.driven rest = t := by
      simp only [State.driven] at hpending ⊢
      rw [← hpending]
    obtain ⟨s', hrun, hs'⟩ := ih t
    rw [htdriven] at hrun
    refine ⟨s', (run_driven_cons p rest ht).trans hrun, ?_⟩
    rw [hs', hengine]
    rfl

/-! ### The result registers: DOUT, VALID and ERR -/

theorem Engine.drive_of_rst {p : PortSignals} (h : p.rst = true) (e : Engine) : e.drive p = Engine.reset := by
  simp [drive, h]

theorem Engine.drive_of_commandWord {p : PortSignals} {w : Word} (h : p.commandWord = some w) (e : Engine) :
    e.drive p = e.executeCommand w := by
  obtain ⟨⟨hr, hq, hw, hi⟩, rfl⟩ := PortSignals.commandWord_eq_some_iff.1 h
  simp [drive, hr, hq, hw, hi, portWrite]

/-- A write of a slot that is not CMD leaves the results (R54). -/
theorem Engine.portWrite_results {idx : RegIndex} (h : idx ≠ 4) (v : Word) (e : Engine) :
    (e.portWrite idx v).dout = e.dout ∧ (e.portWrite idx v).valid = e.valid ∧
      (e.portWrite idx v).err = e.err := by
  obtain ⟨-, hw⟩ | ⟨-, hw⟩ | ⟨-, hw⟩ | ⟨h4, -⟩ | ⟨-, hw⟩ := portWrite_cases idx v e
  case inr.inr.inr.inl => exact absurd h4 h
  all_goals simp [hw]

/-- Without reset and without a command the results stay (R24, R27, R28). -/
theorem Engine.drive_results {p : PortSignals} (hr : p.rst = false) (hc : p.commandWord = none) (e : Engine) :
    (e.drive p).dout = e.dout ∧ (e.drive p).valid = e.valid ∧ (e.drive p).err = e.err := by
  by_cases hw : p.req = true ∧ p.we = true
  · have hidx : p.idx ≠ 4 := by simpa [PortSignals.commandWord_eq, hr, hw] using hc
    simpa [drive, hr, hw] using e.portWrite_results hidx p.wdata
  · simp [drive, hr, hw]

/-- An illegal command leaves DOUT (R208, R240). -/
theorem Engine.executeCommand_dout_of_illegal {w : Word} (h : legalCommand w = false) (e : Engine) :
    (e.executeCommand w).dout = e.dout := by
  rw [executeCommand_illegal (by simpa [legalCommand] using h), raiseIllegalCommand_dout]

/-- Without reset and without a legal command DOUT stays (R24, R240). -/
theorem Engine.drive_dout {p : PortSignals} (hr : p.rst = false)
    (hc : ∀ u, p.commandWord = some u → legalCommand u = false) (e : Engine) : (e.drive p).dout = e.dout := by
  cases hw : p.commandWord with
  | none => exact (e.drive_results hr hw).1
  | some u => rw [e.drive_of_commandWord hw, e.executeCommand_dout_of_illegal (hc u hw)]

/-- R24: over a history without reset and without a legal command DOUT stays. -/
theorem Engine.foldl_drive_dout {h : List PortSignals}
    (hh : ∀ q ∈ h, q.rst = false ∧ ∀ u, q.commandWord = some u → legalCommand u = false) (e : Engine) :
    (h.foldl Engine.drive e).dout = e.dout := by
  induction h generalizing e with
  | nil => rfl
  | cons q rest ih =>
    obtain ⟨⟨hr, hc⟩, hrest⟩ := List.forall_mem_cons.1 hh
    exact (ih hrest _).trans (e.drive_dout hr hc)

/-! ### STATUS over a history -/

/-- R27, R28: VALID and ERR report `last`, the most recent command since reset if there was one. -/
def Engine.Reports (e : Engine) : Option Word → Prop
  | none => e.valid = false ∧ e.err = 0
  | some w => e.valid = legalCommand w ∧ e.err = if legalCommand w then 0 else 3

theorem Engine.executeCommand_reports (w : Word) (e : Engine) : (e.executeCommand w).Reports (some w) := by
  obtain ⟨h, he⟩ | ⟨h, r, he⟩ := executeCommand_cases w e
  · have hillegal : legalCommand w = false := decide_eq_false h
    simp [Reports, hillegal, he]
  · have hlegal : legalCommand w = true := decide_eq_true h
    simp [Reports, hlegal, he]

/-- Every step keeps STATUS reporting the most recent command. -/
theorem Engine.drive_reports {last : Option Word} {e : Engine} (h : e.Reports last) (p : PortSignals) :
    (e.drive p).Reports (if p.rst then none else p.commandWord.or last) := by
  cases hr : p.rst with
  | true =>
    rw [drive_of_rst hr]
    exact ⟨rfl, rfl⟩
  | false =>
    cases hc : p.commandWord with
    | some w =>
      rw [drive_of_commandWord hc]
      exact e.executeCommand_reports w
    | none =>
      obtain ⟨-, hvalid, herr⟩ := e.drive_results hr hc
      cases last <;> simpa [Reports, hvalid, herr] using h

/-- R28: over a history STATUS reports the last command of `lastCommand`. -/
theorem Engine.foldl_drive_reports {last : Option Word} {e : Engine} (he : e.Reports last)
    (h : List PortSignals) : (h.foldl Engine.drive e).Reports (lastCommand h last) := by
  induction h generalizing last e with
  | nil => exact he
  | cons p rest ih =>
    rw [lastCommand_cons]
    exact ih (drive_reports he p)

/-! ### The operand registers: KEY, DIN and IV -/

/-- A command leaves the operands (R165, R208). -/
theorem Engine.executeCommand_operands {x : RegIndex} (hx : x = 0 ∨ x = 1 ∨ x = 2) (w : Word) (e : Engine) :
    (e.executeCommand w).portRead x = e.portRead x := by
  obtain ⟨-, he⟩ | ⟨-, r, he⟩ := executeCommand_cases w e <;>
    obtain rfl | rfl | rfl := hx <;> simp [he, portRead]

/-- Of the operands a write changes only its own (R54). -/
theorem Engine.portWrite_operands {x : RegIndex} (hx : x = 0 ∨ x = 1 ∨ x = 2) (idx : RegIndex) (v : Word)
    (e : Engine) : (e.portWrite idx v).portRead x = if idx = x then v else e.portRead x := by
  obtain ⟨rfl, hw⟩ | ⟨rfl, hw⟩ | ⟨rfl, hw⟩ | ⟨rfl, hw⟩ | ⟨hi, hw⟩ := portWrite_cases idx v e <;> rw [hw]
  case inr.inr.inr.inl =>
    rw [executeCommand_operands hx, if_neg (by obtain rfl | rfl | rfl := hx <;> decide)]
  case inr.inr.inr.inr =>
    rw [if_neg (by obtain rfl | rfl | rfl := hx <;> obtain rfl | rfl | rfl | rfl := hi <;> decide)]
  all_goals obtain rfl | rfl | rfl := hx <;> simp [portRead]

/-- An operand after one step: 0 after reset, the value of a write of its own slot, or what it was (R30). -/
theorem Engine.drive_operands {x : RegIndex} (hx : x = 0 ∨ x = 1 ∨ x = 2) (p : PortSignals) (e : Engine) :
    (e.drive p).portRead x =
      if p.rst then 0 else if p.req = true ∧ p.we = true ∧ p.idx = x then p.wdata else e.portRead x := by
  cases hr : p.rst with
  | true =>
    rw [drive_of_rst hr]
    obtain rfl | rfl | rfl := hx <;> rfl
  | false =>
    by_cases hw : p.req = true ∧ p.we = true
    · simp [drive, hr, hw, portWrite_operands hx]
    · have hown : ¬ (p.req = true ∧ p.we = true ∧ p.idx = x) := fun ⟨hq, hwe, _⟩ => hw ⟨hq, hwe⟩
      simp [drive, hr, hw, hown]

/-- R62: over a history an operand holds the last value written to its own slot. -/
theorem Engine.foldl_drive_operands {x : RegIndex} (hx : x = 0 ∨ x = 1 ∨ x = 2) (h : List PortSignals)
    (e : Engine) : (h.foldl Engine.drive e).portRead x = lastWritten x h (e.portRead x) := by
  induction h generalizing e with
  | nil => rfl
  | cons p rest ih => rw [List.foldl_cons, ih, e.drive_operands hx, lastWritten_cons]

/-- R62, R237: the operands a command samples after a history are the last values written. -/
theorem Engine.sample_foldl_drive (h : List PortSignals) (e : Engine) :
    (h.foldl Engine.drive e).sample = ⟨lastWritten 0 h e.key, lastWritten 1 h e.din, lastWritten 2 h e.iv⟩ := by
  have hkey : (h.foldl Engine.drive e).key = lastWritten 0 h e.key := foldl_drive_operands (.inl rfl) h e
  have hdin : (h.foldl Engine.drive e).din = lastWritten 1 h e.din := foldl_drive_operands (.inr (.inl rfl)) h e
  have hiv : (h.foldl Engine.drive e).iv = lastWritten 2 h e.iv := foldl_drive_operands (.inr (.inr rfl)) h e
  rw [sample, hkey, hdin, hiv]

/-! ### A legal command's result -/

/-- R34: the result reads IV in CBC mode only. -/
theorem commandResult_congr {mode : Bool} {o o' : Operands} (hk : o.k = o'.k) (hb : o.b = o'.b)
    (hv : mode = true → o.v = o'.v) (dir : Bool) : commandResult mode dir o = commandResult mode dir o' := by
  cases mode with
  | false => cases dir <;> simp [commandResult, hk, hb]
  | true => cases dir <;> simp [commandResult, hk, hb, hv rfl]

/-! ### The statements of spec/10_state.md -/

/-- Settles O29: reset reports no command, and every step keeps STATUS reporting the most recent one. -/
theorem statusReportsTheLastCommand : Obligations.StatusReportsTheLastCommand := by
  intro h s hreset
  obtain ⟨s', hrun, hengine⟩ := run_driven h s
  have hinit : s.engine.Reports none := by rw [hreset]; exact ⟨rfl, rfl⟩
  have hlast : s'.engine.Reports (lastCommand h none) := hengine ▸ Engine.foldl_drive_reports hinit h
  refine ⟨s', hrun, ?_⟩
  cases hc : lastCommand h none with
  | none => rwa [hc] at hlast
  | some w => rwa [hc] at hlast

/-- Settles O31: the command samples what `before` wrote last, and nothing in `after` touches DOUT. -/
theorem doutHoldsTheLastLegalResult : Obligations.DoutHoldsTheLastLegalResult := by
  intro before after p w s hp hlegal hafter
  obtain ⟨s', hrun, hengine⟩ := run_driven (before ++ p :: after) s
  refine ⟨s', hrun, ?_⟩
  calc s'.engine.dout
      = (after.foldl Engine.drive ((before.foldl Engine.drive s.engine).drive p)).dout := by
        rw [hengine, List.foldl_append, List.foldl_cons]
    _ = ((before.foldl Engine.drive s.engine).drive p).dout := Engine.foldl_drive_dout hafter _
    _ = commandResult (cmdMode w) (cmdDir w) (before.foldl Engine.drive s.engine).sample := by
        rw [Engine.drive_of_commandWord hp, executeCommand_legal (of_decide_eq_true hlegal),
          Engine.completeCommand_dout]
    _ = _ := by rw [Engine.sample_foldl_drive]

/-- Settles O22: both states complete with the result of their samples, which agree on what the mode reads. -/
theorem commandDependsOnlyOnItsOperands : Obligations.CommandDependsOnlyOnItsOperands := by
  intro w s t hw hkey hdin hiv
  have hexec (u : State) : exec (decodePort (packPort true 4 w)) u =
      .next (u.ackWrite (u.engine.completeCommand (commandResult (cmdMode w) (cmdDir w) u.engine.sample))) := by
    rw [decodePort_write, exec_decodeWrite, ← executeCommand_legal hw]
    rfl
  have hresult : commandResult (cmdMode w) (cmdDir w) s.engine.sample =
      commandResult (cmdMode w) (cmdDir w) t.engine.sample := commandResult_congr hkey hdin hiv _
  refine ⟨_, _, hexec s, hexec t, ?_, by simp, by simp⟩
  rw [State.ackWrite_engine, State.ackWrite_engine, Engine.completeCommand_dout, Engine.completeCommand_dout,
    hresult]

/-- Settles O27: signals that neither reset nor command keep the results, and only a legal command moves DOUT. -/
theorem onlyCommandsAndResetWriteResults : Obligations.OnlyCommandsAndResetWriteResults := by
  intro s s' h
  obtain hsame | ⟨a, rest, p, hpend, hsig, hdrive⟩ := step_engine h
  · simp [hsame]
  refine ⟨fun hflags => ⟨a, rest, p, hpend, hsig, ?_⟩, fun hdout => ⟨a, rest, p, hpend, hsig, ?_⟩⟩
  · by_contra hno
    simp only [not_or, Bool.not_eq_true, ← Option.ne_none_iff_exists', not_not] at hno
    obtain ⟨hr, hc⟩ := hno
    obtain ⟨-, hvalid, herr⟩ := s.engine.drive_results hr hc
    simp [hdrive, hvalid, herr] at hflags
  · by_contra hno
    simp only [not_or, Bool.not_eq_true, not_exists, not_and] at hno
    obtain ⟨hr, hc⟩ := hno
    exact hdout (hdrive ▸ s.engine.drive_dout hr hc)

/-- Settles O28: the three cases of an operand after one step. -/
theorem onlyOwnWriteAndResetChangeOperands : Obligations.OnlyOwnWriteAndResetChangeOperands := by
  intro s s' h x hx hne
  obtain hsame | ⟨a, rest, p, hpend, hsig, hdrive⟩ := step_engine h
  · exact absurd (by rw [hsame]) hne
  refine ⟨a, rest, p, hpend, hsig, ?_⟩
  have hread := s.engine.drive_operands hx p
  rw [← hdrive] at hread
  cases hr : p.rst with
  | true => exact .inl ⟨rfl, by simpa [hr] using hread⟩
  | false =>
    by_cases hown : p.req = true ∧ p.we = true ∧ p.idx = x
    · obtain ⟨hq, hw, hi⟩ := hown
      exact .inr ⟨rfl, hq, hw, hi, by simpa [hr, hq, hw, hi] using hread⟩
    · exact absurd (by simpa [hr, hown] using hread) hne

end Sys2Proof.Machine

/-! PROOFS. The register port and the register block on a platform bus (spec/20_memory.md): an instruction run
twice, what a byte-addressed access of a slot is, and the statements about both. -/

namespace Sys2Proof.Machine

/-! ### A read and a write of a slot -/

/-- RD answers with `PortRead` of its index and changes nothing else (R53). -/
theorem exec_rd (idx : RegIndex) (ignored : Word) (s : State) :
    exec (.rd idx ignored) s = .next (s.ackRead (s.engine.portRead idx)) := rfl

/-- A decoded write is `PortWrite` of its index and DATA (R54). -/
theorem exec_packedWrite (idx : RegIndex) (v : Word) (s : State) :
    exec (decodePort (packPort true idx v)) s = .next (s.ackWrite (s.engine.portWrite idx v)) := by
  rw [decodePort_write, exec_decodeWrite]

/-! ### The same instruction once more -/

/-- Only the last of two results stays (R24). -/
@[simp] theorem Engine.completeCommand_completeCommand (r r' : Word) (e : Engine) :
    (e.completeCommand r).completeCommand r' = e.completeCommand r' := rfl

/-- A completion leaves the operands that the next command samples (R34, R237). -/
@[simp] theorem Engine.sample_completeCommand (r : Word) (e : Engine) :
    (e.completeCommand r).sample = e.sample := rfl

@[simp] theorem Engine.raiseIllegalCommand_raiseIllegalCommand (e : Engine) :
    e.raiseIllegalCommand.raiseIllegalCommand = e.raiseIllegalCommand := rfl

/-- Only the last acknowledged write stays: its engine and its answer. -/
@[simp] theorem State.ackWrite_ackWrite (e e' : Engine) (s : State) :
    (s.ackWrite e).ackWrite e' = s.ackWrite e' := rfl

/-- A command on a result of its own operands computes that result again (R59). -/
theorem Engine.completeCommand_idem (f : Operands → Word) (e : Engine) :
    (e.completeCommand (f e.sample)).completeCommand (f (e.completeCommand (f e.sample)).sample) =
      e.completeCommand (f e.sample) := by
  rw [completeCommand_completeCommand, sample_completeCommand]

/-- A write whose effect on the engine is idempotent is idempotent as a transaction. -/
theorem exec_idem_of_ackWrite {i : Instr} {f : Engine → Engine}
    (hexec : ∀ s, exec i s = .next (s.ackWrite (f s.engine))) (hf : ∀ e, f (f e) = f e)
    {s s' : State} (h : exec i s = .next s') : exec i s' = .next s' := by
  cases (hexec s).symm.trans h
  rw [hexec, State.ackWrite_engine, hf, State.ackWrite_ackWrite]

/-- A command whose result depends on its sampled operands alone is idempotent (R34, R59). -/
theorem exec_idem_of_completeCommand {i : Instr} (f : Operands → Word)
    (hexec : ∀ s, exec i s = .next (s.ackWrite (s.engine.completeCommand (f s.engine.sample))))
    {s s' : State} (h : exec i s = .next s') : exec i s' = .next s' :=
  exec_idem_of_ackWrite (f := fun e => e.completeCommand (f e.sample)) hexec (Engine.completeCommand_idem f) h

/-! ### The bytes of a slot -/

/-- The byte at offset `k` as a number: the register value cut at its bits (R56). -/
theorem toNat_slotByte (v : Word) (k : Nat) : (slotByte v k).toNat = v.toNat / 2 ^ (56 - 8 * k) % 256 := by
  simp [slotByte, Nat.shiftRight_eq_div_pow]

/-- The first `n` bytes of a slot spell the top `8n` bits of the register (R56). -/
theorem foldl_slotByte (v : Word) {n : Nat} (hn : n ≤ 8) :
    ((List.range n).map (slotByte v)).foldl (fun acc b => 256 * acc + b.toNat) 0 =
      v.toNat / 2 ^ (64 - 8 * n) := by
  induction n with
  | zero => exact (Nat.div_eq_of_lt v.isLt).symm
  | succ n ih =>
    have hcut : v.toNat / 2 ^ (64 - 8 * n) = v.toNat / 2 ^ (56 - 8 * n) / 256 := by
      rw [Nat.div_div_eq_div_mul, show 64 - 8 * n = 56 - 8 * n + 8 by omega, Nat.pow_add]
    rw [List.range_succ, List.map_append, List.foldl_append, ih (by omega), hcut]
    simp only [List.map_cons, List.map_nil, List.foldl_cons, List.foldl_nil, toNat_slotByte]
    rw [Nat.div_add_mod, show 64 - 8 * (n + 1) = 56 - 8 * n by omega]

/-- The eight bytes of a slot spell the register value back (R56). -/
@[simp] theorem wordOfBytes_slotBytes (v : Word) : wordOfBytes (slotBytes v) = v := by
  rw [wordOfBytes, slotBytes, foldl_slotByte v le_rfl]
  simp

@[simp] theorem length_slotBytes (v : Word) : (slotBytes v).length = 8 := by
  simp [slotBytes]

/-! ### An access of the register block -/

/-- R58: the well-formed accesses are those 8 bytes wide at one of the eight slots, a write with its 8 bytes. -/
theorem BusAccess.wellFormed_iff (base : Nat) (a : BusAccess) :
    a.wellFormed base = true ↔
      a.width = 8 ∧ (∃ idx : RegIndex, a.addr = base + 8 * idx.toNat) ∧ (a.we = true → a.bytes.length = 8) := by
  have hslot : (base ≤ a.addr ∧ (a.addr - base) % 8 = 0 ∧ (a.addr - base) / 8 < 8) ↔
      ∃ idx : RegIndex, a.addr = base + 8 * idx.toNat := by
    constructor
    · rintro ⟨hbase, hmod, hdiv⟩
      exact ⟨.ofNat 3 ((a.addr - base) / 8), by rw [BitVec.toNat_ofNat, Nat.mod_eq_of_lt hdiv]; omega⟩
    · rintro ⟨idx, haddr⟩
      have := idx.isLt
      omega
  have hbytes : (!a.we || decide (a.bytes.length = 8)) = true ↔ (a.we = true → a.bytes.length = 8) := by
    cases a.we <;> simp
  rw [wellFormed, Bool.and_eq_true, hbytes, ← hslot]
  simp only [Bool.and_eq_true, decide_eq_true_eq]
  tauto

/-- The signals of an access of slot `idx` (R56). -/
theorem BusAccess.signals_slot (base : Nat) (we : Bool) (idx : RegIndex) (width : Nat) (bytes : List Byte) :
    (BusAccess.mk we (base + 8 * idx.toNat) width bytes).signals base =
      ⟨false, true, we, idx, if we then wordOfBytes bytes else 0⟩ := by
  simp [signals]

/-- An 8-byte access of slot `idx` is the port's transaction of that slot (R56, R58). -/
theorem step_busSlot (s : State) (rest : List HostAction) (we : Bool) (idx : RegIndex) {bytes : List Byte}
    (hbytes : we = true → bytes.length = 8) :
    step { s with pending := .bus ⟨we, Config.baseAddress 0 + 8 * idx.toNat, 8, bytes⟩ :: rest } =
      exec (decodePort (packPort we idx (if we then wordOfBytes bytes else 0))) { s with pending := rest } := by
  have hwf := (BusAccess.wellFormed_iff (Config.baseAddress 0)
    ⟨we, Config.baseAddress 0 + 8 * idx.toNat, 8, bytes⟩).2 ⟨rfl, ⟨idx, rfl⟩, hbytes⟩
  simp only [step, stepAt, HostAction.signals, hwf, if_true, BusAccess.signals_slot]
  rfl

/-- An access that is not well formed is refused by name (R57). -/
theorem step_bus_refused (s : State) (rest : List HostAction) {a : BusAccess}
    (h : ¬ a.wellFormed (Config.baseAddress 0) = true) :
    step { s with pending := .bus a :: rest } = .refused (.busAccessOutsideSpec a) := by
  simp [step, stepAt, HostAction.signals, h]

/-! ### The statements of spec/20_memory.md -/

/-- Settles O30: the run leaves the engine that the signals give, and each operand of it is its last write. -/
theorem operandsHoldTheLastWrite : Obligations.OperandsHoldTheLastWrite := by
  intro h s
  obtain ⟨s', hrun, hengine⟩ := run_driven h s
  have hsample := Engine.sample_foldl_drive h s.engine
  rw [← hengine] at hsample
  exact ⟨s', hrun, congrArg Operands.k hsample, congrArg Operands.b hsample, congrArg Operands.v hsample⟩

/-- Settles O12: each clause is `PortWrite` at its index. -/
theorem writeBySlot : Obligations.WriteBySlot := by
  intro s v
  exact ⟨exec_packedWrite 0 v s, exec_packedWrite 1 v s, exec_packedWrite 2 v s, exec_packedWrite 3 v s,
    exec_packedWrite 4 v s, exec_packedWrite 5 v s, exec_packedWrite 6 v s, exec_packedWrite 7 v s⟩

/-- Settles O33: the bytes of a slot and their value, and the access of a slot as a write and as a read. -/
theorem busSlotIsBigEndian : Obligations.BusSlotIsBigEndian := by
  refine ⟨fun v k hk => ?byteAt, wordOfBytes_slotBytes, fun s rest idx v => ?write, fun s rest idx bytes => ?read⟩
  case byteAt => simp [slotBytes, slotByte, hk]
  case write => simpa using step_busSlot s rest true idx (fun _ => length_slotBytes v)
  case read => simpa using step_busSlot s rest false idx (bytes := bytes) (by simp)

/-- Settles O34: an access that is well formed has the width and the address that this one lacks. -/
theorem otherBusAccessesAreRefused : Obligations.OtherBusAccessesAreRefused := by
  intro s rest a hout
  refine step_bus_refused s rest fun hwf => ?_
  obtain ⟨hwidth, ⟨idx, haddr⟩, -⟩ := (BusAccess.wellFormed_iff _ a).1 hwf
  exact hout.elim (fun hw => hw hwidth) (fun ha => ha idx haddr)

/-- Settles O10: each clause is `PortRead` at its index. -/
theorem readBySlot : Obligations.ReadBySlot := by
  intro s d
  exact ⟨exec_rd 0 d s, exec_rd 1 d s, exec_rd 2 d s, exec_rd 3 d s,
    exec_rd 4 d s, exec_rd 5 d s, exec_rd 6 d s, exec_rd 7 d s⟩

/-- Settles O23: a read leaves the registers it reads, and every write has an idempotent effect on the engine. -/
theorem repeatedTransactionChangesNothing : Obligations.RepeatedTransactionChangesNothing := by
  intro i s s' h
  cases i with
  | rd idx d =>
    cases (exec_rd idx d s).symm.trans h
    rfl
  | wrKey v => exact exec_idem_of_ackWrite (f := ({ · with key := v })) (fun _ => rfl) (fun _ => rfl) h
  | wrDin v => exact exec_idem_of_ackWrite (f := ({ · with din := v })) (fun _ => rfl) (fun _ => rfl) h
  | wrIv v => exact exec_idem_of_ackWrite (f := ({ · with iv := v })) (fun _ => rfl) (fun _ => rfl) h
  | wrIgnDout _ | wrIgnStatus _ | wrIgnR6 _ | wrIgnR7 _ =>
    exact exec_idem_of_ackWrite (f := id) (fun _ => rfl) (fun _ => rfl) h
  | encEcb => exact exec_idem_of_completeCommand (fun o => ecbE o.b o.k) (fun _ => rfl) h
  | decEcb => exact exec_idem_of_completeCommand (fun o => ecbD o.b o.k) (fun _ => rfl) h
  | encCbc => exact exec_idem_of_completeCommand (fun o => cbcE o.b o.k o.v) (fun _ => rfl) h
  | decCbc => exact exec_idem_of_completeCommand (fun o => cbcD o.b o.k o.v) (fun _ => rfl) h
  | cmdIllegal _ => exact exec_idem_of_ackWrite (fun _ => rfl) Engine.raiseIllegalCommand_raiseIllegalCommand h

end Sys2Proof.Machine

/-! PROOFS. The encoding (spec/30_encoding.md): the decoder and the encoder undo each other, the opcode table row by
row, the digits of a transaction and of an immediate, the transactions of a boundary operation, and the statements
about them. -/

namespace Sys2Proof

/-! ### The decoder of CMD words and the encoder -/

/-- R74: a word with a reserved bit set is none of the four command words. -/
theorem ne_commandWords_of_reserved {w : Word} (h : cmdReserved w ≠ 0) :
    w ≠ 0#64 ∧ w ≠ 1#64 ∧ w ≠ 2#64 ∧ w ≠ 3#64 := by
  have hw := mt (cmdReserved_eq_zero_iff w).2 h
  push Not at hw
  exact hw

/-- R73: the four command words have rows of their own, and every other word is CMD.ILLEGAL. -/
theorem decodeCommand_cases (w : Word) :
    (w = 0 ∧ decodeCommand w = .encEcb) ∨ (w = 1 ∧ decodeCommand w = .decEcb) ∨
    (w = 2 ∧ decodeCommand w = .encCbc) ∨ (w = 3 ∧ decodeCommand w = .decCbc) ∨
    (cmdReserved w ≠ 0 ∧ decodeCommand w = .cmdIllegal w) := by
  by_cases hlegal : cmdReserved w = 0
  · obtain rfl | rfl | rfl | rfl := (cmdReserved_eq_zero_iff w).1 hlegal <;> simp [decodeCommand]
  · obtain ⟨h0, h1, h2, h3⟩ := ne_commandWords_of_reserved hlegal
    exact .inr (.inr (.inr (.inr ⟨hlegal, by simp [decodeCommand, h0, h1, h2, h3]⟩)))

/-- R74: a word with a reserved bit set is CMD.ILLEGAL. -/
theorem decodeCommand_of_reserved {w : Word} (h : cmdReserved w ≠ 0) : decodeCommand w = .cmdIllegal w := by
  obtain ⟨h0, h1, h2, h3⟩ := ne_commandWords_of_reserved h
  simp [decodeCommand, h0, h1, h2, h3]

theorem wellFormed_decodeCommand (w : Word) : (decodeCommand w).WellFormed := by
  obtain ⟨-, h⟩ | ⟨-, h⟩ | ⟨-, h⟩ | ⟨-, h⟩ | ⟨hreserved, h⟩ := decodeCommand_cases w <;> rw [h]
  case inr.inr.inr.inr => exact decide_eq_true hreserved
  all_goals rfl

/-- The word of a decoded command is the write of CMD it came from (R73). -/
theorem encode_decodeCommand (w : Word) : encode (decodeCommand w) = packPort true 4 w := by
  obtain ⟨rfl, h⟩ | ⟨rfl, h⟩ | ⟨rfl, h⟩ | ⟨rfl, h⟩ | ⟨-, h⟩ := decodeCommand_cases w <;> rw [h] <;> rfl

theorem wellFormed_decodeWrite (idx : RegIndex) (data : Word) : (decodeWrite idx data).WellFormed := by
  obtain rfl | rfl | rfl | rfl | rfl | rfl | rfl | rfl := regIndex_cases idx
  case inr.inr.inr.inr.inl => exact wellFormed_decodeCommand data
  all_goals rfl

/-- The word of a decoded write is that write (R71, R73). -/
theorem encode_decodeWrite (idx : RegIndex) (data : Word) :
    encode (decodeWrite idx data) = packPort true idx data := by
  obtain rfl | rfl | rfl | rfl | rfl | rfl | rfl | rfl := regIndex_cases idx
  case inr.inr.inr.inr.inl => exact encode_decodeCommand data
  all_goals rfl

/-! ### The rows of the opcode table -/

/-- Packed words are equal exactly when their fields are (R70). -/
theorem packPort_inj {we we' : Bool} {idx idx' : RegIndex} {data data' : Word} :
    packPort we idx data = packPort we' idx' data' ↔ we = we' ∧ idx = idx' ∧ data = data' := by
  constructor
  · intro h
    exact ⟨by simpa using congrArg portWE h, by simpa using congrArg portIdx h,
      by simpa using congrArg portData h⟩
  · rintro ⟨rfl, rfl, rfl⟩
    rfl

/-- A mask works on each field of a packed word by itself. -/
theorem packPort_and (we we' : Bool) (idx idx' : RegIndex) (data data' : Word) :
    packPort we idx data &&& packPort we' idx' data' = packPort (we && we') (idx &&& idx') (data &&& data') := by
  apply BitVec.eq_of_getLsbD_eq
  intro i _
  simp only [BitVec.getLsbD_and, getLsbD_packPort, ← BitVec.ofBool_and_ofBool]
  split_ifs <;> rfl

/-- A row is matched field by field (R73). -/
theorem OpcodeRow.accepts_packPort_iff {name : String} {we weP weM : Bool} {idx idxP idxM : RegIndex}
    {data dataP dataM : Word} :
    (OpcodeRow.mk name (packPort weP idxP dataP) (packPort weM idxM dataM)).accepts (packPort we idx data) = true ↔
      (we && weM) = weP ∧ idx &&& idxM = idxP ∧ data &&& dataM = dataP := by
  rw [accepts, packPort_and, beq_iff_eq, packPort_inj]

/-- R73: the row of reads, whatever the index and DATA. -/
def OpcodeRow.read (name : String) : OpcodeRow := ⟨name, packPort false 0 0, packPort true 0 0⟩

/-- R73: the row of writes of one index, whatever DATA. -/
def OpcodeRow.write (name : String) (idx : RegIndex) : OpcodeRow :=
  ⟨name, packPort true idx 0, packPort true (BitVec.allOnes 3) 0⟩

/-- R73: the row of one exact word written to CMD. -/
def OpcodeRow.command (name : String) (w : Word) : OpcodeRow :=
  ⟨name, packPort true 4 w, packPort true (BitVec.allOnes 3) (BitVec.allOnes 64)⟩

/-- The table's hex patterns and masks, as rows of these three kinds. -/
theorem opcodeTable_eq : opcodeTable =
    [ .read "RD", .write "WR.KEY" 0, .write "WR.DIN" 1, .write "WR.IV" 2, .write "WR.IGN.DOUT" 3,
      .write "WR.IGN.STATUS" 5, .write "WR.IGN.R6" 6, .write "WR.IGN.R7" 7, .command "ENC.ECB" 0,
      .command "DEC.ECB" 1, .command "ENC.CBC" 2, .command "DEC.CBC" 3, .write "CMD.ILLEGAL" 4 ] := by
  decide

@[simp] theorem OpcodeRow.read_mnemonic (name : String) : (read name).mnemonic = name := rfl

@[simp] theorem OpcodeRow.write_mnemonic (name : String) (idx : RegIndex) : (write name idx).mnemonic = name := rfl

@[simp] theorem OpcodeRow.read_accepts (name : String) (we : Bool) (idx : RegIndex) (data : Word) :
    (read name).accepts (packPort we idx data) = !we := by
  rw [Bool.eq_iff_iff, read, accepts_packPort_iff]
  simp

@[simp] theorem OpcodeRow.write_accepts (name : String) (row : RegIndex) (we : Bool) (idx : RegIndex)
    (data : Word) : (write name row).accepts (packPort we idx data) = (we && idx == row) := by
  rw [Bool.eq_iff_iff, write, accepts_packPort_iff, BitVec.and_allOnes]
  simp

@[simp] theorem OpcodeRow.command_accepts (name : String) (w : Word) (we : Bool) (idx : RegIndex) (data : Word) :
    (command name w).accepts (packPort we idx data) = (we && idx == 4 && data == w) := by
  rw [Bool.eq_iff_iff, command, accepts_packPort_iff, BitVec.and_allOnes, BitVec.and_allOnes]
  simp [and_assoc]

/-- The first row of a write of CMD is that of its command word (R73). -/
theorem matchRow_command (w : Word) :
    (matchRow (packPort true 4 w)).map (·.mnemonic) = some (decodeCommand w).mnemonic := by
  obtain ⟨rfl, -⟩ | ⟨rfl, -⟩ | ⟨rfl, -⟩ | ⟨rfl, -⟩ | ⟨hreserved, h⟩ := decodeCommand_cases w
  case inr.inr.inr.inr =>
    obtain ⟨h0, h1, h2, h3⟩ := ne_commandWords_of_reserved hreserved
    simp [matchRow, opcodeTable_eq, h, h0, h1, h2, h3, Instr.mnemonic]
  all_goals rfl

/-- The first row of a write is that of its index (R73). -/
theorem matchRow_write (idx : RegIndex) (data : Word) :
    (matchRow (packPort true idx data)).map (·.mnemonic) = some (decodeWrite idx data).mnemonic := by
  obtain rfl | rfl | rfl | rfl | rfl | rfl | rfl | rfl := regIndex_cases idx
  case inr.inr.inr.inr.inl => exact matchRow_command data
  all_goals simp [matchRow, opcodeTable_eq, decodeWrite, Instr.mnemonic]

end Sys2Proof

namespace Sys2Proof.Machine

/-! ### The 17-digit form and immediates -/

/-- R70: digit 1 of a packed transaction is `WE ‖ IDX`, and the other 16 are those of DATA. -/
theorem portText_packPort (we : Bool) (idx : RegIndex) (data : Word) :
    portText (packPort we idx data) = hexChar (BitVec.ofBool we ++ idx) :: hexEncode 64 data := by
  have hfirst : (packPort we idx data).extractLsb' 64 4 = BitVec.ofBool we ++ idx := by
    apply BitVec.eq_of_getLsbD_eq
    intro i hi
    rw [BitVec.getLsbD_extractLsb', getLsbD_packPort, if_neg (by omega), BitVec.getLsbD_append,
      Nat.add_sub_cancel_left, show 64 + i - 67 = i - 3 by omega]
    simp [hi, show 64 + i < 67 ↔ i < 3 by omega]
  have hrest (j : Nat) :
      (packPort we idx data).extractLsb' (64 - 4 * (j + 1)) 4 = data.extractLsb' (64 - 4 * (j + 1)) 4 := by
    apply BitVec.eq_of_getLsbD_eq
    intro i hi
    rw [BitVec.getLsbD_extractLsb', BitVec.getLsbD_extractLsb', getLsbD_packPort, if_pos (by omega)]
  have hdigits : portText (packPort we idx data) =
      (0 :: (List.range 16).map Nat.succ).map
        fun j => hexChar ((packPort we idx data).extractLsb' (68 - 4 * (j + 1)) 4) := by
    rw [← List.range_succ_eq_map]
    rfl
  rw [hdigits, List.map_cons, hfirst, List.map_map]
  refine congrArg _ (List.map_congr_left fun j _ => ?_)
  rw [Function.comp_apply, show 68 - 4 * (j.succ + 1) = 64 - 4 * (j + 1) by omega, hrest]

theorem hexDigit_lt {c : Char} {d : Nat} (h : hexDigit c = some d) : d < 16 := by
  simp only [hexDigit] at h
  split_ifs at h with h1 h2 h3 <;> cases h <;> omega

/-- Every digit of a decoded string is a hex digit's value (R100). -/
theorem hexDigits_lt {s : Text} {ds : List Nat} (h : hexDigits s = some ds) : ∀ d ∈ ds, d < 16 := by
  induction s generalizing ds with
  | nil => cases h; simp
  | cons c cs ih =>
    simp only [hexDigits] at h
    split at h
    · next d ds' hc hs => cases h; exact List.forall_mem_cons.2 ⟨hexDigit_lt hc, ih hs⟩
    · cases h

theorem digitsValue_snoc (ds : List Nat) (d : Nat) : digitsValue (ds ++ [d]) = 16 * digitsValue ds + d := by
  simp [digitsValue]

/-- The number that `n` hex digits spell is below `16 ^ n`. -/
theorem digitsValue_lt {ds : List Nat} (h : ∀ d ∈ ds, d < 16) : digitsValue ds < 16 ^ ds.length := by
  induction ds using List.reverseRecOn with
  | nil => simp [digitsValue]
  | append_singleton ds d ih =>
    have hds := ih fun x hx => h x (by simp [hx])
    have hd := h d (by simp)
    rw [digitsValue_snoc, List.length_append, List.length_singleton, pow_succ]
    omega

/-- R78: what follows `0x`, if it is one hex digit or more, is an immediate of at most 16 digits or too long. -/
theorem parseImm_of_hexDigits {t : Text} {ds : List Nat} (hne : t ≠ []) (h : hexDigits t = some ds) :
    parseImm ('0' :: 'x' :: t) =
      if t.length ≤ 16 then .ok (BitVec.ofNat 64 (digitsValue ds)) else .error .immediateTooLong := by
  cases t with
  | nil => exact absurd rfl hne
  | cons c cs => rw [← hexDigits_length h]; simp [parseImm, h]

/-! ### A run over offered transactions -/

/-- A transaction that is offered is the next step's instruction (R59). -/
theorem step_ofWord (e : Engine) (we : Bool) (idx : RegIndex) (v : Word) (rest : List HostAction)
    (a : PortAnswer) :
    step ⟨e, .port (.ofWord (packPort we idx v)) :: rest, a⟩ =
      exec (decodePort (packPort we idx v)) ⟨e, rest, a⟩ :=
  congrArg (fun w => exec (decodePort w) ⟨e, rest, a⟩) (packPort_fields (packPort we idx v))

/-- A write that is offered completes as `PortWrite` of its index and DATA (R54, R59). -/
theorem run_write (n : Nat) (e : Engine) (idx : RegIndex) (v : Word) (rest : List HostAction) (a : PortAnswer) :
    run (n + 1) ⟨e, .port (.ofWord (packPort true idx v)) :: rest, a⟩ =
      run n ⟨e.portWrite idx v, rest, .ackWrite⟩ :=
  run_succ n ((step_ofWord e true idx v rest a).trans (exec_packedWrite idx v ⟨e, rest, a⟩))

/-- A read that is offered answers with `PortRead` of its index (R53, R59). -/
theorem run_read (n : Nat) (e : Engine) (idx : RegIndex) (v : Word) (rest : List HostAction) (a : PortAnswer) :
    run (n + 1) ⟨e, .port (.ofWord (packPort false idx v)) :: rest, a⟩ =
      run n ⟨e, rest, .ackRead (e.portRead idx)⟩ := by
  refine run_succ n ((step_ofWord e false idx v rest a).trans ?_)
  rw [decodePort_read]
  rfl

/-- A decoded command is offered as the write of its word to CMD (R73). -/
theorem HostAction.offer_decodeCommand (w : Word) :
    HostAction.offer (decodeCommand w) = .port (.ofWord (packPort true 4 w)) := by
  rw [offer, encode_decodeCommand]

/-- An operand that decodes goes into the operation (R171). -/
theorem withOperand_ok {s : Text} {v : Word} (h : hexDecode 64 s = .ok v) (name : OperandName) (e : Engine)
    (go : Word → BoundaryOutcome) : withOperand name s e go = go v := by
  rw [withOperand, h]

/-- R80, R171, R172: an ECB operation is its four transactions. -/
theorem run_ecbTransactions (w : Word) {p k : Text} {b kv : Word} (hp : hexDecode 64 p = .ok b)
    (hk : hexDecode 64 k = .ok kv) (s : State) (rest : List HostAction) :
    ∃ d, run 4 { s with pending := ecbTransactions (decodeCommand w) b kv ++ rest } =
        .next ⟨(boundaryECB w p k s.engine).engine, rest, .ackRead d⟩ ∧
      (boundaryECB w p k s.engine).result = .ok (hexEncode 64 d) := by
  have hop : boundaryECB w p k s.engine =
      returnDout (((s.engine.portWrite 0 kv).portWrite 1 b).portWrite 4 w) := by
    rw [boundaryECB, withOperand_ok hp, withOperand_ok hk]
  rw [hop]
  refine ⟨_, ?_, rfl⟩
  simp only [ecbTransactions, HostAction.offer_decodeCommand, List.cons_append, List.nil_append]
  simp only [HostAction.offer, encode, run_write, run_read, run_zero, returnDout]

/-- R80, R173, R174: a CBC operation is its five transactions. -/
theorem run_cbcTransactions (w : Word) {p k iv : Text} {b kv v : Word} (hp : hexDecode 64 p = .ok b)
    (hk : hexDecode 64 k = .ok kv) (hiv : hexDecode 64 iv = .ok v) (s : State) (rest : List HostAction) :
    ∃ d, run 5 { s with pending := cbcTransactions (decodeCommand w) b kv v ++ rest } =
        .next ⟨(boundaryCBC w p k iv s.engine).engine, rest, .ackRead d⟩ ∧
      (boundaryCBC w p k iv s.engine).result = .ok (hexEncode 64 d) := by
  have hop : boundaryCBC w p k iv s.engine =
      returnDout ((((s.engine.portWrite 0 kv).portWrite 1 b).portWrite 2 v).portWrite 4 w) := by
    rw [boundaryCBC, withOperand_ok hp, withOperand_ok hk, withOperand_ok hiv]
  rw [hop]
  refine ⟨_, ?_, rfl⟩
  simp only [cbcTransactions, HostAction.offer_decodeCommand, List.cons_append, List.nil_append]
  simp only [HostAction.offer, encode, run_write, run_read, run_zero, returnDout]

/-! ### The statements of spec/30_encoding.md -/

/-- Settles O2: each row's word decodes by its WE and IDX, and a CMD.ILLEGAL word by its reserved bits. -/
theorem decodeOfEncodeIsTheInstruction : Obligations.DecodeOfEncodeIsTheInstruction := by
  intro i hwf
  cases i with
  | rd idx ignored => exact decodePort_read idx ignored
  | cmdIllegal w => exact (decodePort_write 4 w).trans (decodeCommand_of_reserved (of_decide_eq_true hwf))
  | wrKey d | wrDin d | wrIv d | wrIgnDout d | wrIgnStatus d | wrIgnR6 d | wrIgnR7 d => exact decodePort_write _ d
  | encEcb | decEcb | encCbc | decCbc => exact decodePort_write 4 _

/-- Settles O42: the four commands are the decoded words 0x0 to 0x3 of their boundary operations. -/
theorem boundaryRefinesItsTransactions : Obligations.BoundaryRefinesItsTransactions := by
  intro p k iv b kv v s rest hp hk hiv
  exact ⟨run_ecbTransactions 0 hp hk s rest, run_ecbTransactions 1 hp hk s rest,
    run_cbcTransactions 2 hp hk hiv s rest, run_cbcTransactions 3 hp hk hiv s rest⟩

/-- Settles O1: the fields of a packed word, its digits, and the rule's two examples. -/
theorem packedTransactionFields : Obligations.PackedTransactionFields := by
  refine ⟨fun we idx data => ⟨portWE_packPort we idx data, portIdx_packPort we idx data,
    portData_packPort we idx data, portText_packPort we idx data⟩, ?_, ?_⟩ <;>
  · rw [encode, portText_packPort]
    decide

/-- Settles O3: a word is the packed form of its fields, and decoding a read or a write keeps them. -/
theorem encodeOfDecodeIsTheWord : Obligations.EncodeOfDecodeIsTheWord := by
  intro w
  rw [← packPort_fields w]
  cases portWE w with
  | false => rw [decodePort_read]; exact ⟨rfl, rfl⟩
  | true => rw [decodePort_write]; exact ⟨wellFormed_decodeWrite _ _, encode_decodeWrite _ _⟩

/-- Settles O4: reads, writes by their index, and the write of CMD by its word. -/
theorem decodingByFields : Obligations.DecodingByFields := by
  refine ⟨decodePort_read, fun data => ?writes, fun _ => rfl⟩
  simp only [decodePort_write]
  refine ⟨rfl, rfl, rfl, rfl, rfl, rfl, rfl, decodeCommand_of_reserved, fun hlegal => ?_⟩
  obtain rfl | rfl | rfl | rfl := (cmdReserved_eq_zero_iff data).1 hlegal <;> rfl

/-- Settles O5: a read matches the first row, and a write the row of its index and command word. -/
theorem decoderFollowsOpcodeTable : Obligations.DecoderFollowsOpcodeTable := by
  intro w
  rw [← packPort_fields w]
  cases portWE w with
  | false => simp [matchRow, opcodeTable_eq, Instr.mnemonic]
  | true => rw [decodePort_write, matchRow_write]

/-- Settles O7: a word with a reserved bit set only reports the error, and the others are the four commands. -/
theorem reservedCommandBitsAreRejected : Obligations.ReservedCommandBitsAreRejected := by
  intro data s
  refine ⟨fun hreserved => ⟨?illegal, ?effect⟩, fun hlegal => ?legal⟩
  case illegal => exact (decodePort_write 4 data).trans (decodeCommand_of_reserved hreserved)
  case effect =>
    have hexec : exec (decodePort (packPort true 4 data)) s =
        .next (s.ackWrite (s.engine.executeCommand data)) := exec_packedWrite 4 data s
    rw [hexec, executeCommand_illegal hreserved]
    rfl
  case legal =>
    rw [decodePort_write]
    obtain rfl | rfl | rfl | rfl := (cmdReserved_eq_zero_iff data).1 hlegal <;> decide

/-- Settles O45: 1 to 16 digits spell a number below `2 ^ 64`, which no wrap-around changes. -/
theorem immediatesHaveOneToSixteenDigits : Obligations.ImmediatesHaveOneToSixteenDigits := by
  intro t ds hds
  refine ⟨fun hpos hle => ?read, fun hlong => ?tooLong, fun hnil => hnil ▸ rfl⟩
  case read =>
    have hfits : digitsValue ds < 2 ^ 64 := calc
      digitsValue ds < 16 ^ ds.length := digitsValue_lt (hexDigits_lt hds)
      _ ≤ 16 ^ 16 := Nat.pow_le_pow_right (by omega) (hexDigits_length hds ▸ hle)
      _ = 2 ^ 64 := by norm_num
    refine ⟨BitVec.ofNat 64 (digitsValue ds), ?_, (BitVec.toNat_ofNat _ _).trans (Nat.mod_eq_of_lt hfits)⟩
    rw [parseImm_of_hexDigits (List.length_pos_iff.1 hpos) hds, if_pos hle]
  case tooLong =>
    rw [parseImm_of_hexDigits (List.length_pos_iff.1 (by omega)) hds, if_neg (by omega)]

/-- Settles O6: six words of the opcode map, and the one bound that a number must meet. -/
theorem sampleWordsDecode : Obligations.SampleWordsDecode := by
  refine ⟨by decide, by decide, by decide, by decide, by decide, by decide, fun nbits w => ?_⟩
  by_cases hw : w < 2 ^ 68
  · rw [decodeTableWord, decodeNat, if_pos hw]
    exact iff_of_true rfl hw
  · rw [decodeTableWord, decodeNat, if_neg hw]
    exact iff_of_false Bool.false_ne_true hw

/-- Settles O14: an ignored write is acknowledged on the engine as it is, and a read only answers. -/
theorem ignoredWritesAndReadsChangeNothing : Obligations.IgnoredWritesAndReadsChangeNothing := by
  intro s v
  exact ⟨exec_decodeWrite 3 v s, exec_decodeWrite 5 v s, exec_decodeWrite 6 v s, exec_decodeWrite 7 v s,
    fun idx => ⟨_, exec_rd idx v s⟩⟩

/-- Settles O44: the four one-line programs, each assembled through its expansion. -/
theorem pseudoInstructionsExpand : Obligations.PseudoInstructionsExpand := by
  refine ⟨rfl, ?_, rfl, ?_, rfl, ?_, rfl, ?_⟩ <;> decide

end Sys2Proof.Machine

/-! PROOFS. The primitive layer (spec/40_primitives.md): the hex codec and its inverse, the permutation primitive, and
the S-boxes. -/

namespace Sys2Proof.Machine

/-! ### The hex digits -/

theorem toNat_lt_of_hexDigit {c : Char} (h : hexDigit c ≠ none) : c.toNat < 103 := by
  by_contra hlarge
  refine h ?_
  rw [hexDigit, if_neg (by omega), if_neg (by omega), if_neg (by omega)]

/-- R100: the hex digits are these 22 characters. -/
theorem hexDigit_ne_none_iff (c : Char) : hexDigit c ≠ none ↔ c ∈ "0123456789ABCDEFabcdef".toList := by
  have hcodes : ∀ k < 103, hexDigit (Char.ofNat k) ≠ none → Char.ofNat k ∈ "0123456789ABCDEFabcdef".toList := by
    decide
  have hlisted : hexDigits "0123456789ABCDEFabcdef".toList ≠ none := by decide
  refine ⟨fun h => ?_, fun hc h => hlisted ((hexDigits_eq_none_iff _).2 ⟨c, hc, h⟩)⟩
  have hcode := hcodes c.toNat (toNat_lt_of_hexDigit h)
  rw [Char.ofNat_toNat] at hcode
  exact hcode h

/-- R102: a digit that is none of a-f is how the encoder writes its value. -/
theorem hexChar_of_hexDigit {c : Char} {d : BitVec 4} (h : hexDigit c = some d.toNat)
    (hupper : c.toNat < 97 ∨ 102 < c.toNat) : hexChar d = c := by
  have hc : Char.ofNat c.toNat = c := Char.ofNat_toNat c
  simp only [hexDigit] at h
  split_ifs at h with hdecimal hletter hlower
  · have hd : c.toNat - 48 = d.toNat := Option.some.inj h
    rw [hexChar, if_pos (by omega), show 48 + d.toNat = c.toNat by omega, hc]
  · have hd : c.toNat - 55 = d.toNat := Option.some.inj h
    rw [hexChar, if_neg (by omega), show 55 + d.toNat = c.toNat by omega, hc]
  · omega

theorem upperCase_iff (s : Text) : upperCase s = true ↔ ∀ c ∈ s, c.toNat < 97 ∨ 102 < c.toNat := by
  simp [upperCase]

/-- The digits of a string are its characters' values, one by one (R100). -/
theorem hexDigits_eq_some_iff (s : Text) (ds : List Nat) :
    hexDigits s = some ds ↔ s.map hexDigit = ds.map some := by
  induction s generalizing ds with
  | nil => cases ds <;> simp [hexDigits]
  | cons c cs ih =>
    cases ds with
    | nil => cases hc : hexDigit c <;> cases hs : hexDigits cs <;> simp [hexDigits, hc, hs]
    | cons d ds => cases hc : hexDigit c <;> cases hs : hexDigits cs <;> simp [hexDigits, hc, hs, ← ih]

/-! ### The value of a digit string -/

/-- R10: digit `j` of a value of `ds.length` hex digits. -/
theorem digitsValue_div_mod {ds : List Nat} (h : ∀ d ∈ ds, d < 16) (j : Nat) (hj : j < ds.length) :
    digitsValue ds / 16 ^ (ds.length - 1 - j) % 16 = ds[j] := by
  induction ds using List.reverseRecOn with
  | nil => simp at hj
  | append_singleton ds d ih =>
    have hd : d < 16 := h d (by simp)
    have hhigh : (16 * digitsValue ds + d) / 16 = digitsValue ds := by omega
    rw [digitsValue_snoc, List.getElem_append, List.length_append, List.length_singleton, Nat.add_sub_cancel]
    split_ifs with hlt
    · rw [show ds.length - j = (ds.length - 1 - j) + 1 by omega, pow_succ', ← Nat.div_div_eq_div_mul, hhigh]
      exact ih (fun x hx => h x (by simp [hx])) hlt
    · have hlast : j = ds.length := by simp at hj; omega
      simp [hlast]
      omega

/-- R101: digit `j` of an `n`-bit value, as arithmetic. -/
theorem toNat_nibble {n : Nat} (hn : n % 4 = 0) (v : BitVec n) (j : Nat) :
    (v.extractLsb' (n - 4 * (j + 1)) 4).toNat = v.toNat / 16 ^ (n / 4 - 1 - j) % 16 := by
  have hpow : 2 ^ (n - 4 * (j + 1)) = 16 ^ (n / 4 - 1 - j) := by
    rw [show n - 4 * (j + 1) = 4 * (n / 4 - 1 - j) by omega, pow_mul]
    rfl
  rw [BitVec.extractLsb'_toNat, Nat.shiftRight_eq_div_pow, hpow]

/-- Values of a width that is a multiple of 4 are equal when their hex digits are. -/
theorem eq_of_nibbles {n : Nat} (hn : n % 4 = 0) {v w : BitVec n}
    (h : ∀ j < n / 4, v.extractLsb' (n - 4 * (j + 1)) 4 = w.extractLsb' (n - 4 * (j + 1)) 4) : v = w := by
  apply BitVec.eq_of_getLsbD_eq
  intro i hi
  have hbit := congrArg (fun d => d.getLsbD (i % 4)) (h (n / 4 - 1 - i / 4) (by omega))
  have hpos : n - 4 * (n / 4 - 1 - i / 4 + 1) + i % 4 = i := by omega
  simpa [BitVec.getLsbD_extractLsb', hpos, Nat.mod_lt] using hbit

/-! ### The decoder -/

theorem hexDecode_of_not_digits (n : Nat) {s : Text} (h : ∃ c ∈ s, hexDigit c = none) :
    hexDecode n s = .error .invalidEncoding := by
  rw [hexDecode, (hexDigits_eq_none_iff s).2 h]

theorem hexDecode_of_digits (n : Nat) {s : Text} {ds : List Nat} (h : hexDigits s = some ds) :
    hexDecode n s =
      if s.length ≠ n / 4 then .error .invalidLength else .ok (BitVec.ofNat n (digitsValue ds)) := by
  rw [hexDecode, h]

/-- A string of hex digits has a list of digit values (R100). -/
theorem exists_hexDigits {s : Text} (h : ∀ c ∈ s, hexDigit c ≠ none) : ∃ ds, hexDigits s = some ds := by
  refine Option.ne_none_iff_exists'.1 fun hnone => ?_
  obtain ⟨c, hc, hdigit⟩ := (hexDigits_eq_none_iff s).1 hnone
  exact h c hc hdigit

/-- R100: the value that `n / 4` digits spell has these digits. -/
theorem hexDigit_getElem {n : Nat} (hn : n % 4 = 0) {s : Text} {ds : List Nat} (hds : hexDigits s = some ds)
    (hlen : s.length = n / 4) (j : Nat) (hj : j < s.length) :
    hexDigit s[j] = some ((BitVec.ofNat n (digitsValue ds)).extractLsb' (n - 4 * (j + 1)) 4).toNat := by
  have hdslen : ds.length = n / 4 := (hexDigits_length hds).trans hlen
  have hdigit : hexDigit s[j] = some ds[j] := by
    have hmap := (hexDigits_eq_some_iff s ds).1 hds
    simpa [hj, hdslen, ← hlen] using congrArg (·[j]?) hmap
  have hfits : digitsValue ds < 2 ^ n := calc
    digitsValue ds < 16 ^ ds.length := digitsValue_lt (hexDigits_lt hds)
    _ = 2 ^ (4 * (n / 4)) := by rw [hdslen, pow_mul]; rfl
    _ = 2 ^ n := by rw [Nat.mul_div_cancel' (Nat.dvd_of_mod_eq_zero hn)]
  rw [toNat_nibble hn, BitVec.toNat_ofNat, Nat.mod_eq_of_lt hfits, hdigit, ← hdslen,
    digitsValue_div_mod (hexDigits_lt hds)]

/-- R100: a string decodes to a value exactly when it has `n / 4` characters and each is the value's hex digit. -/
theorem hexDecode_eq_ok_iff {n : Nat} (hn : n % 4 = 0) (s : Text) (w : BitVec n) :
    hexDecode n s = .ok w ↔ s.length = n / 4 ∧
      ∀ (j : Nat) (hj : j < s.length), hexDigit s[j] = some (w.extractLsb' (n - 4 * (j + 1)) 4).toNat := by
  constructor
  · intro h
    by_cases hall : ∀ c ∈ s, hexDigit c ≠ none
    · obtain ⟨ds, hds⟩ := exists_hexDigits hall
      rw [hexDecode_of_digits n hds] at h
      split_ifs at h with hlen
      · cases h
        exact ⟨not_not.1 hlen, hexDigit_getElem hn hds (not_not.1 hlen)⟩
    · push Not at hall
      rw [hexDecode_of_not_digits n hall] at h
      cases h
  · rintro ⟨hlen, hdigits⟩
    obtain ⟨ds, hds⟩ : ∃ ds, hexDigits s = some ds := by
      refine exists_hexDigits fun c hc => ?_
      obtain ⟨j, hj, rfl⟩ := List.getElem_of_mem hc
      simp [hdigits j hj]
    rw [hexDecode_of_digits n hds, if_neg (not_not_intro hlen)]
    refine congrArg _ (eq_of_nibbles hn fun j hj => BitVec.eq_of_toNat_eq (Option.some.inj ?_))
    rw [← hdigits j (by omega), ← hexDigit_getElem hn hds hlen]

/-! ### The encoder -/

@[simp] theorem length_hexEncode (n : Nat) (v : BitVec n) : (hexEncode n v).length = n / 4 := by
  simp [hexEncode]

/-- R101: digit `j` of the encoding. -/
@[simp] theorem getElem_hexEncode (n : Nat) (v : BitVec n) (j : Nat) (hj : j < (hexEncode n v).length) :
    (hexEncode n v)[j] = hexChar (v.extractLsb' (n - 4 * (j + 1)) 4) := by
  simp [hexEncode]

/-- R101: the digits A to F are written in upper case. -/
theorem upperCase_hexEncode (n : Nat) (v : BitVec n) : upperCase (hexEncode n v) = true := by
  have hchar : ∀ d : BitVec 4, (hexChar d).toNat < 97 ∨ 102 < (hexChar d).toNat := by decide
  refine (upperCase_iff _).2 fun c hc => ?_
  obtain ⟨j, hj, rfl⟩ := List.getElem_of_mem hc
  rw [getElem_hexEncode]
  exact hchar _

/-- R102: decoding an encoded value gives it back. -/
theorem hexDecode_hexEncode {n : Nat} (hn : n % 4 = 0) (v : BitVec n) : hexDecode n (hexEncode n v) = .ok v :=
  (hexDecode_eq_ok_iff hn _ v).2 ⟨length_hexEncode n v, by simp⟩

/-- R102: encoding what an upper-case string decodes to gives the string back. -/
theorem hexEncode_of_hexDecode {n : Nat} (hn : n % 4 = 0) {s : Text} {w : BitVec n} (h : hexDecode n s = .ok w)
    (hupper : upperCase s = true) : hexEncode n w = s := by
  obtain ⟨hlen, hdigits⟩ := (hexDecode_eq_ok_iff hn s w).1 h
  refine List.ext_getElem ((length_hexEncode n w).trans hlen.symm) fun j hj hjs => ?_
  rw [getElem_hexEncode]
  exact hexChar_of_hexDigit (hdigits j hjs) ((upperCase_iff s).1 hupper _ (List.getElem_mem hjs))

/-! ### The permutation primitive -/

/-- R103: output position `i` is input position `T[i]`. -/
theorem pos_perm {n m : Nat} (T : Vector Nat m) (v : BitVec n) (i : Nat) (hi : 1 ≤ i) (him : i ≤ m) :
    pos (perm T v) i = pos v T[i - 1] := by
  rw [pos, getLsbD_perm T v (m - i) (by omega), pos]
  congr 3
  omega

theorem perm_xor {n m : Nat} (T : Vector Nat m) (a b : BitVec n) : perm T (a ^^^ b) = perm T a ^^^ perm T b := by
  apply BitVec.eq_of_getLsbD_eq
  intro j hj
  simp [getLsbD_perm T _ j hj]

/-- R103: with every entry in 1..n, an output bit is an input bit, and so is its complement. -/
theorem perm_not {n m : Nat} {T : Vector Nat m} (hT : ∀ p ∈ T.toList, 1 ≤ p ∧ p ≤ n) (v : BitVec n) :
    perm T (~~~v) = ~~~(perm T v) := by
  apply BitVec.eq_of_getLsbD_eq
  intro j hj
  obtain ⟨hpos, hle⟩ := hT T[m - 1 - j] (by simp)
  have hinput : n - T[m - 1 - j] < n := by omega
  rw [getLsbD_perm T _ j hj, BitVec.getLsbD_not, BitVec.getLsbD_not, getLsbD_perm T v j hj]
  simp [hj, hinput]

/-- Bit strings with the same positions are equal (R9). -/
theorem eq_of_pos {n : Nat} {v w : BitVec n} (h : ∀ i, 1 ≤ i → i ≤ n → pos v i = pos w i) : v = w := by
  apply BitVec.eq_of_getLsbD_eq
  intro j hj
  simpa [pos, show n - (n - j) = j by omega] using h (n - j) (by omega) (by omega)

/-- Permuting by `T` and then by `S` undoes itself where `T` inverts `S` position by position (R106). -/
theorem perm_perm_of_inverse {n m : Nat} {S : Vector Nat n} {T : Vector Nat m}
    (hS : ∀ p ∈ S.toList, 1 ≤ p ∧ p ≤ m)
    (hinv : ∀ i : Fin n, T.toList.getD (S.toList.getD i 0 - 1) 0 = i + 1) (v : BitVec n) :
    perm S (perm T v) = v := by
  refine eq_of_pos fun i hi hin => ?_
  obtain ⟨hpos, hle⟩ := hS S[i - 1] (by simp)
  have hback : T[S[i - 1] - 1] = i := by
    have h := hinv ⟨i - 1, by omega⟩
    simpa [show i - 1 < n by omega, show S[i - 1] - 1 < m by omega, Nat.sub_add_cancel hi] using h
  rw [pos_perm S _ i hi hin, pos_perm T v _ hpos hle, hback]

/-- R106: the tables IP and FP invert each other. -/
theorem tableIP_tableFP_inverse (i : Fin 64) :
    tableFP.toList.getD (tableIP.toList.getD i 0 - 1) 0 = i + 1 ∧
      tableIP.toList.getD (tableFP.toList.getD i 0 - 1) 0 = i + 1 := by
  revert i; decide

/-! ### The S-boxes -/

/-- An entry of a table, looked up in the table's rows as lists. -/
theorem getElem_eq_getD_toList (S : SBox) (row : Fin 4) (col : Fin 16) :
    S[row][col] = ((S.toList.map Vector.toList).getD row []).getD col 0 := by
  simp

/-- R111: the row is the outer bits, the first the high bit, and the column the inner four. -/
theorem sboxLookup_eq_getD (S : SBox) (g : BitVec 6) :
    sboxLookup S g = BitVec.ofNat 4 (((S.toList.map Vector.toList).getD
      (2 * (g.getLsbD 5).toNat + (g.getLsbD 0).toNat) []).getD (g.extractLsb' 1 4).toNat 0) := by
  have hrow : ∀ g : BitVec 6, (g.extractLsb' 5 1 ++ g.extractLsb' 0 1 : BitVec 2).toNat =
      2 * (g.getLsbD 5).toNat + (g.getLsbD 0).toNat := by decide
  rw [sboxLookup, getElem_eq_getD_toList, BitVec.val_toFin, BitVec.val_toFin, hrow]

/-- R111: nibble `i + 1` of the result is group `i + 1` looked up in `S_{i+1}`. -/
theorem extractLsb'_sboxAll (x : BitVec 48) (i : Fin 8) :
    (sboxAll x).extractLsb' (28 - 4 * i) 4 = sboxLookup (sboxes.getD i sbox1) (sboxGroup x (i + 1)) := by
  rw [sboxAll]
  fin_cases i <;> repeat rw [BitVec.extractLsb'_append_eq_of_le (by decide)]
  · exact BitVec.extractLsb'_eq_self
  all_goals exact BitVec.extractLsb'_append_eq_right

/-- R111: the bits of group `i + 1`. -/
theorem getLsbD_sboxGroup (x : BitVec 48) (i : Fin 8) (j : Nat) (hj : j < 6) :
    (sboxGroup x (i + 1)).getLsbD j = x.getLsbD (42 - 6 * i + j) := by
  rw [sboxGroup, BitVec.getLsbD_extractLsb', decide_eq_true hj, Bool.true_and,
    show 48 - 6 * (i.val + 1) = 42 - 6 * i by omega]

theorem extractLsb'_sboxGroup (x : BitVec 48) (i : Fin 8) :
    (sboxGroup x (i + 1)).extractLsb' 1 4 = x.extractLsb' (43 - 6 * i) 4 := by
  apply BitVec.eq_of_getLsbD_eq
  intro j hj
  rw [BitVec.getLsbD_extractLsb', BitVec.getLsbD_extractLsb', getLsbD_sboxGroup x i (1 + j) (by omega),
    show 42 - 6 * i.val + (1 + j) = 43 - 6 * i + j by omega]

/-- R120: every row holds 0 to 15 in some order. -/
theorem sboxRow_perm_range : ∀ row ∈ sboxes.flatMap Vector.toList, row.toList.Perm (List.range 16) := by
  decide

/-! ### The statements of spec/40_primitives.md -/

/-- Settles O37: a string decodes to `w` exactly when its characters are `w`'s digits, which the encoder writes. -/
theorem hexCodecIsInvertible : Obligations.HexCodecIsInvertible := by
  intro n hn
  exact ⟨hexDecode_hexEncode hn, fun s w => hexEncode_of_hexDecode hn,
    fun s w _ => ⟨upperCase_hexEncode n w, hexDecode_hexEncode hn w⟩⟩

/-- Settles O36: the 22 digits by their codes, and the decoder by its two checks. -/
theorem hexDecodeContract : Obligations.HexDecodeContract := by
  refine ⟨hexDigit_ne_none_iff, by decide, by decide, fun n s hn => ⟨hexDecode_of_not_digits n, ?length, ?value⟩⟩
  case length =>
    intro hall hlen
    obtain ⟨ds, hds⟩ := exists_hexDigits hall
    rw [hexDecode_of_digits n hds, if_pos hlen]
  case value =>
    intro hall hlen
    obtain ⟨ds, hds⟩ := exists_hexDigits hall
    refine ⟨BitVec.ofNat n (digitsValue ds), ?_, hexDigit_getElem hn hds hlen⟩
    rw [hexDecode_of_digits n hds, if_neg (not_not_intro hlen)]

/-- Settles O46: an output bit is the input bit that the table names. -/
theorem permutationLaws : Obligations.PermutationLaws := by
  intro n m T hT
  exact ⟨pos_perm T, perm_xor T, perm_not hT⟩

/-- Settles O47: the tables invert each other at every position, hence on every value. -/
theorem initialAndFinalPermutationsAreInverses : Obligations.InitialAndFinalPermutationsAreInverses := by
  refine ⟨tableIP_tableFP_inverse, fun v => ⟨?_, ?_⟩⟩
  · exact perm_perm_of_inverse (by decide) (fun i => (tableIP_tableFP_inverse i).2) v
  · exact perm_perm_of_inverse (by decide) (fun i => (tableIP_tableFP_inverse i).1) v

/-- Settles O48: each nibble is one lookup, and the rule's three examples. -/
theorem sboxByGroup : Obligations.SboxByGroup := by
  refine ⟨fun x i => ?_, by decide +kernel, by decide +kernel, by decide +kernel⟩
  rw [extractLsb'_sboxAll, sboxLookup_eq_getD, getLsbD_sboxGroup x i 5 (by omega), getLsbD_sboxGroup x i 0 (by omega),
    extractLsb'_sboxGroup, show 42 - 6 * i.val + 5 = 47 - 6 * i by omega, Nat.add_zero]

/-- Settles O49: the shape is the tables' type, and each row is a rearrangement of 0 to 15. -/
theorem sboxTablesAreWellShaped : Obligations.SboxTablesAreWellShaped := by
  refine ⟨rfl, fun S hS => ⟨S.length_toList, fun row hrow => ?_⟩⟩
  have hperm := sboxRow_perm_range row (List.mem_flatMap.2 ⟨S, hS, hrow⟩)
  refine ⟨row.length_toList, fun v hv => ?_, fun v hv => ?_⟩
  · exact Nat.le_of_lt_succ (List.mem_range.1 (hperm.mem_iff.1 hv))
  · exact (hperm.count_eq v).trans (List.count_eq_one_of_mem List.nodup_range hv)

end Sys2Proof.Machine

/-! PROOFS. The key schedule (spec/41_key_schedule.md): a rotation moves positions, so each round key is one selection
of key positions, and the laws of the schedule are facts about the 16 tables of these selections. -/

namespace Sys2Proof.Machine

/-! ### Positions and selections -/

/-- Position `i` of `C ‖ D` (R130, R134). -/
theorem pos_append_halves (c d : KeyHalf) (i : Nat) (hi : i ≤ 56) :
    pos (c ++ d : BitVec 56) i = if i ≤ 28 then pos c i else pos d (i - 28) := by
  simp only [pos]
  change BitVec.getLsbD (w := 28 + 28) (c ++ d) (56 - i) = _
  rw [BitVec.getLsbD_append]
  by_cases h : i ≤ 28
  · rw [if_neg (by omega), if_pos h, show 56 - i - 28 = 28 - i by omega]
  · rw [if_pos (by omega), if_neg h, show 28 - (i - 28) = 56 - i by omega]

/-- Two values have the same selection exactly when they agree in every position it names. -/
theorem perm_eq_perm_iff {n m : Nat} (T : Vector Nat m) (v w : BitVec n) :
    perm T v = perm T w ↔ ∀ p ∈ T.toList, pos v p = pos w p := by
  constructor
  · intro h p hp
    obtain ⟨j, hj, rfl⟩ := List.getElem_of_mem hp
    have hjm : j < m := by simpa using hj
    have hpos := congrArg (pos · (j + 1)) h
    simpa [pos_perm T _ (j + 1) (by omega) hjm] using hpos
  · intro h
    refine eq_of_pos fun i hi him => ?_
    rw [pos_perm T v i hi him, pos_perm T w i hi him]
    exact h _ (by simp)

/-- The table that selects by `T` first and then by `S`. -/
def selectThen {m l : Nat} (T : Vector Nat m) (S : Vector Nat l) : Vector Nat l :=
  S.map fun p => T.toList.getD (p - 1) 0

theorem perm_perm {n m l : Nat} (T : Vector Nat m) {S : Vector Nat l} (hS : ∀ p ∈ S.toList, 1 ≤ p ∧ p ≤ m)
    (v : BitVec n) : perm S (perm T v) = perm (selectThen T S) v := by
  refine eq_of_pos fun i hi hil => ?_
  obtain ⟨hpos, hle⟩ := hS S[i - 1] (by simp)
  rw [pos_perm S _ i hi hil, pos_perm T v _ hpos hle, pos_perm _ v i hi hil]
  simp [selectThen, show S[i - 1] - 1 < m by omega]

theorem mem_of_mem_selectThen {m l : Nat} {T : Vector Nat m} {S : Vector Nat l}
    (hS : ∀ p ∈ S.toList, 1 ≤ p ∧ p ≤ m) {p : Nat} (hp : p ∈ (selectThen T S).toList) : p ∈ T.toList := by
  obtain ⟨q, hq, rfl⟩ : ∃ q ∈ S.toList, T.toList.getD (q - 1) 0 = p := by simpa [selectThen] using hp
  obtain ⟨hpos, hle⟩ := hS q hq
  have hlt : q - 1 < T.toList.length := by simp; omega
  rw [List.getD_eq_getElem _ _ hlt]
  exact List.getElem_mem hlt

/-! ### Rotation -/

/-- The position `s` places to the right of position `i` in a half, cyclically. -/
def rotatedPos (s i : Nat) : Nat := if i + s ≤ 28 then i + s else i + s - 28

theorem rotatedPos_range {s i : Nat} (hs : s ≤ 28) (hi : 1 ≤ i) (hle : i ≤ 28) :
    1 ≤ rotatedPos s i ∧ rotatedPos s i ≤ 28 := by
  unfold rotatedPos
  split_ifs <;> omega

/-- R132: a rotation by `s` moves to position `i` what stood `s` places to its right. -/
theorem pos_rotl28 (x : KeyHalf) {s i : Nat} (hs : s ≤ 28) (hi : 1 ≤ i) (hle : i ≤ 28) :
    pos (rotl28 x s) i = pos x (rotatedPos s i) := by
  simp only [pos, rotl28, rotatedPos, BitVec.getLsbD_or, BitVec.getLsbD_shiftLeft, BitVec.getLsbD_ushiftRight]
  by_cases h : i + s ≤ 28
  · rw [if_pos h, BitVec.getLsbD_of_ge x (28 - s + (28 - i)) (by omega)]
    simp [show 28 - i < 28 by omega, show ¬ 28 - i < s by omega, show 28 - i - s = 28 - (i + s) by omega]
  · rw [if_neg h, show 28 - s + (28 - i) = 28 - (i + s - 28) by omega]
    simp [show 28 - i < s by omega]

/-- R132: the first `s` bits leave at the left and re-enter at the right. -/
theorem rotl28_eq_append (x : KeyHalf) {m s : Nat} (h : m + s = 28) :
    rotl28 x s = (x.extractLsb' 0 m ++ x.extractLsb' m s).cast h := by
  refine eq_of_pos fun i hi hle => ?_
  rw [pos_rotl28 x (by omega) hi hle]
  simp only [pos, rotatedPos, BitVec.getLsbD_cast, BitVec.getLsbD_append, BitVec.getLsbD_extractLsb']
  by_cases hs : i + s ≤ 28
  · simp [hs, show ¬ 28 - i < s by omega, show 28 - i - s < m by omega, show 28 - (i + s) = 28 - i - s by omega]
  · simp [hs, show 28 - i < s by omega, show 28 - (i + s - 28) = m + (28 - i) by omega]

theorem rotl28_rotl28 (x : KeyHalf) {s t : Nat} (h : s + t ≤ 28) : rotl28 (rotl28 x s) t = rotl28 x (s + t) := by
  refine eq_of_pos fun i hi hle => ?_
  obtain ⟨hpos, hmax⟩ := rotatedPos_range (show t ≤ 28 by omega) hi hle
  rw [pos_rotl28 _ (by omega) hi hle, pos_rotl28 x (by omega) hpos hmax, pos_rotl28 x h hi hle]
  congr 1
  unfold rotatedPos
  split_ifs <;> omega

@[simp] theorem rotl28_zero (x : KeyHalf) : rotl28 x 0 = x := by
  refine eq_of_pos fun i hi hle => ?_
  rw [pos_rotl28 x (Nat.zero_le _) hi hle, rotatedPos, Nat.add_zero, if_pos hle]

/-- A half returns after a whole turn (R136). -/
@[simp] theorem rotl28_full (x : KeyHalf) : rotl28 x 28 = x := by
  refine eq_of_pos fun i hi hle => ?_
  rw [pos_rotl28 x le_rfl hi hle, rotatedPos, if_neg (by omega), Nat.add_sub_cancel]

/-! ### The halves of each round -/

/-- The sums of a list's beginnings, on top of `a`. -/
def runningTotals : Nat → List Nat → List Nat
  | _, [] => []
  | a, s :: rest => (a + s) :: runningTotals (a + s) rest

/-- How far the halves of each round stand from the first halves: `[1, 2, 4, ..., 28]` (R131). -/
def shiftTotals : List Nat := runningTotals 0 shiftSchedule

theorem shiftTotals_le : ∀ t ∈ shiftTotals, t ≤ 28 := by decide

theorem keyHalvesFrom_rotl28 (c d : KeyHalf) (ss : List Nat) (a : Nat) (h : a + ss.sum ≤ 28) :
    keyHalvesFrom ss (rotl28 c a) (rotl28 d a) =
      (runningTotals a ss).map fun t => (rotl28 c t, rotl28 d t) := by
  induction ss generalizing a with
  | nil => rfl
  | cons s rest ih =>
    rw [List.sum_cons] at h
    rw [keyHalvesFrom, rotl28_rotl28 c (by omega), rotl28_rotl28 d (by omega), ih (a + s) (by omega),
      runningTotals, List.map_cons]

/-- R133: the halves of a round are the first halves, rotated by the sum of the amounts so far. -/
theorem keyHalves_eq (key : Word) :
    keyHalves key = shiftTotals.map fun t => (rotl28 (keyC0 key) t, rotl28 (keyD0 key) t) := by
  rw [keyHalves, shiftTotals, ← keyHalvesFrom_rotl28 _ _ _ _ (by decide), rotl28_zero, rotl28_zero]

/-- R136: the amounts sum to a whole turn, so the halves return. -/
theorem getLast?_keyHalves (key : Word) : (keyHalves key).getLast? = some (keyC0 key, keyD0 key) := by
  have hlast : shiftTotals.getLast? = some 28 := by decide
  simp [keyHalves_eq, hlast]

/-! ### The round keys as selections of key positions -/

/-- The selection of 56 positions that rotates both halves by `t`. `perm_rotationTable` ties it to `rotl28`. -/
def rotationTable (t : Nat) : Vector Nat 56 :=
  Vector.ofFn fun i => if i.val < 28 then rotatedPos t (i + 1) else rotatedPos t (i - 27) + 28

theorem rotationTable_range {t : Nat} (ht : t ≤ 28) : ∀ p ∈ (rotationTable t).toList, 1 ≤ p ∧ p ≤ 56 := by
  intro p hp
  obtain ⟨i, rfl⟩ : ∃ i : Fin 56,
      (if i.val < 28 then rotatedPos t (i + 1) else rotatedPos t (i - 27) + 28) = p := by
    simpa [rotationTable, List.mem_ofFn] using hp
  split_ifs with h
  · have := rotatedPos_range ht (show 1 ≤ i.val + 1 by omega) (by omega)
    omega
  · have := rotatedPos_range ht (show 1 ≤ i.val - 27 by omega) (by omega)
    omega

theorem perm_rotationTable (c d : KeyHalf) {t : Nat} (ht : t ≤ 28) :
    perm (rotationTable t) (c ++ d : BitVec 56) = (rotl28 c t ++ rotl28 d t : BitVec 56) := by
  refine eq_of_pos fun i hi hle => ?_
  rw [pos_perm _ _ i hi hle, rotationTable, Vector.getElem_ofFn, pos_append_halves _ _ i hle]
  by_cases hleft : i ≤ 28
  · obtain ⟨-, hmax⟩ := rotatedPos_range ht hi hleft
    have hindex : i - 1 < 28 := by omega
    simp only [hindex, hleft, if_true, Nat.sub_add_cancel hi]
    rw [pos_rotl28 c ht hi hleft, pos_append_halves _ _ _ (by omega), if_pos hmax]
  · obtain ⟨hpos, hmax⟩ := rotatedPos_range ht (show 1 ≤ i - 28 by omega) (by omega)
    have hindex : ¬ i - 1 < 28 := by omega
    simp only [hindex, hleft, if_false, show i - 1 - 27 = i - 28 by omega]
    rw [pos_rotl28 d ht (by omega) (by omega), pos_append_halves _ _ _ (by omega), if_neg (by omega),
      Nat.add_sub_cancel]

theorem keyC0_append_keyD0 (key : Word) : (keyC0 key ++ keyD0 key : BitVec 56) = pc1 key :=
  (BitVec.extractLsb'_append_extractLsb'_eq_extractLsb' (by decide)).trans BitVec.extractLsb'_eq_self

/-- R130: PC-1 selects key positions, and no parity position. -/
theorem tablePC1_range : ∀ p ∈ tablePC1.toList, 1 ≤ p ∧ p ≤ 64 ∧ p % 8 ≠ 0 := by decide

theorem tablePC2_range : ∀ p ∈ tablePC2.toList, 1 ≤ p ∧ p ≤ 56 := by decide

/-- The 48 key positions that a round selects when its halves stand rotated by `t`. `keySchedule_eq` ties it to the
model. -/
def roundKeyTable (t : Nat) : Vector Nat 48 := selectThen tablePC1 (selectThen (rotationTable t) tablePC2)

/-- PC-2 after a rotation still selects positions of `C0 ‖ D0`. -/
theorem selectThen_tablePC2_range {t : Nat} (ht : t ≤ 28) :
    ∀ p ∈ (selectThen (rotationTable t) tablePC2).toList, 1 ≤ p ∧ p ≤ 56 :=
  fun p hp => rotationTable_range ht p (mem_of_mem_selectThen tablePC2_range hp)

theorem mem_tablePC1_of_mem_roundKeyTable {t p : Nat} (ht : t ≤ 28) (hp : p ∈ (roundKeyTable t).toList) :
    p ∈ tablePC1.toList :=
  mem_of_mem_selectThen (selectThen_tablePC2_range ht) hp

theorem roundKeyTable_range {t : Nat} (ht : t ≤ 28) : ∀ p ∈ (roundKeyTable t).toList, 1 ≤ p ∧ p ≤ 64 := by
  intro p hp
  obtain ⟨hpos, hle, -⟩ := tablePC1_range p (mem_tablePC1_of_mem_roundKeyTable ht hp)
  exact ⟨hpos, hle⟩

/-- R136: each round key is one selection of key positions. -/
theorem keySchedule_eq (key : Word) : keySchedule key = shiftTotals.map fun t => perm (roundKeyTable t) key := by
  rw [keySchedule, keyHalves_eq, List.map_map]
  refine List.map_congr_left fun t ht => ?_
  have hle := shiftTotals_le t ht
  calc pc2 (rotl28 (keyC0 key) t ++ rotl28 (keyD0 key) t)
    _ = perm tablePC2 (perm (rotationTable t) (pc1 key)) := by
      rw [pc2, ← perm_rotationTable _ _ hle, keyC0_append_keyD0]
    _ = perm (selectThen (rotationTable t) tablePC2) (perm tablePC1 key) := by
      rw [perm_perm _ tablePC2_range, pc1]
    _ = perm (roundKeyTable t) key := perm_perm _ (selectThen_tablePC2_range hle) key

/-- R137: every position that PC-1 selects reaches a round key. -/
theorem mem_roundKeyTable_of_mem_tablePC1 :
    ∀ p ∈ tablePC1.toList, ∃ t ∈ shiftTotals, p ∈ (roundKeyTable t).toList := by decide +kernel

/-- R137: equal schedules are equal selections, and these name every position of PC-1. -/
theorem keySchedule_eq_iff (k k' : Word) :
    keySchedule k = keySchedule k' ↔ ∀ p ∈ tablePC1.toList, pos k p = pos k' p := by
  have hselect : keySchedule k = keySchedule k' ↔
      ∀ t ∈ shiftTotals, ∀ p ∈ (roundKeyTable t).toList, pos k p = pos k' p := by
    simp only [keySchedule_eq, List.map_inj_left, perm_eq_perm_iff]
  rw [hselect]
  constructor
  · intro h p hp
    obtain ⟨t, ht, hmem⟩ := mem_roundKeyTable_of_mem_tablePC1 p hp
    exact h t ht p hmem
  · intro h t ht p hp
    exact h p (mem_tablePC1_of_mem_roundKeyTable (shiftTotals_le t ht) hp)

/-! ### The laws of the schedule -/

/-- R136: keys that agree outside the parity positions have the same schedule. -/
theorem keySchedule_eq_of_parity {k k' : Word}
    (h : ∀ p, 1 ≤ p → p ≤ 64 → p % 8 ≠ 0 → pos k p = pos k' p) : keySchedule k = keySchedule k' := by
  refine (keySchedule_eq_iff k k').2 fun p hp => ?_
  obtain ⟨hpos, hle, hparity⟩ := tablePC1_range p hp
  exact h p hpos hle hparity

/-- R136: each bit of each round key is one bit of the key. -/
theorem exists_pos_keySchedule (n i : Nat) (hn : n < 16) (hi : i < 48) :
    ∃ p, 1 ≤ p ∧ p ≤ 64 ∧ ∀ key : Word, ((keySchedule key).getD n 0).getLsbD i = pos key p := by
  have hlen : n < shiftTotals.length := hn
  obtain ⟨hpos, hle⟩ := roundKeyTable_range (shiftTotals_le _ (List.getElem_mem hlen))
    (roundKeyTable shiftTotals[n])[48 - 1 - i] (by simp)
  refine ⟨_, hpos, hle, fun key => ?_⟩
  rw [keySchedule_eq, List.getD_eq_getElem _ _ (by simpa using hlen), List.getElem_map, getLsbD_perm _ key i hi, pos]

/-- R136: every step is a selection, so the schedule of `~key` is the complements. -/
theorem keySchedule_not (key : Word) : keySchedule (~~~key) = (keySchedule key).map (~~~·) := by
  rw [keySchedule_eq, keySchedule_eq, List.map_map]
  exact List.map_congr_left fun t ht => perm_not (roundKeyTable_range (shiftTotals_le t ht)) key

/-! ### The schedule in the core and in the commands -/

/-- The core reads the key through its schedule alone (R142, R143). -/
theorem desCore_congr {k k' : Word} (h : keySchedule k = keySchedule k') (b : Word) (dir : Bool) :
    desCore b k dir = desCore b k' dir := by
  simp only [desCore, roundKeys, h]

theorem commandResult_congr_keySchedule {k k' : Word} (h : keySchedule k = keySchedule k') (mode dir : Bool)
    (b v : Word) : commandResult mode dir ⟨k, b, v⟩ = commandResult mode dir ⟨k', b, v⟩ := by
  cases mode <;> cases dir <;> simp only [commandResult, ecbE, ecbD, cbcE, cbcD, desCore_congr h]

/-- R136: keys with the same schedule leave the same DOUT, whatever the command word. -/
theorem executeCommand_dout_congr {k k' : Word} (h : keySchedule k = keySchedule k') (w : Word) (e : Engine) :
    ({ e with key := k }.executeCommand w).dout = ({ e with key := k' }.executeCommand w).dout := by
  by_cases hw : cmdReserved w = 0
  · rw [executeCommand_legal hw, executeCommand_legal hw, Engine.completeCommand_dout, Engine.completeCommand_dout]
    exact commandResult_congr_keySchedule h _ _ _ _
  · rw [executeCommand_illegal hw, executeCommand_illegal hw]
    rfl

/-- The two halves in swapped places, in which the rounds run backwards (R144, R146). -/
def Halves.swap (h : Halves) : Halves := ⟨h.r, h.l⟩

/-- A round on the swapped halves undoes the round (R146). -/
theorem feistelRound_swap (h : Halves) (k : RoundKey) : feistelRound (feistelRound h k).swap k = h.swap := by
  simp [feistelRound, Halves.swap]

/-- R146: the rounds with the keys reversed, on the swapped halves, undo the rounds. -/
theorem feistel_reverse_swap (ks : List RoundKey) (h : Halves) : feistel ks.reverse (feistel ks h).swap = h.swap := by
  induction ks generalizing h with
  | nil => rfl
  | cons k rest ih =>
    calc feistel (k :: rest).reverse (feistel (k :: rest) h).swap
      _ = feistelRound (feistel rest.reverse (feistel rest (feistelRound h k)).swap) k := by simp [feistel]
      _ = feistelRound (feistelRound h k).swap k := by rw [ih]
      _ = h.swap := feistelRound_swap h k

theorem roundKeys_not (key : Word) (dir : Bool) : roundKeys key (!dir) = (roundKeys key dir).reverse := by
  cases dir <;> simp [roundKeys]

/-- R146: each direction of the core undoes the other. -/
theorem desCore_desCore (b k : Word) (dir : Bool) : desCore (desCore b k dir) k (!dir) = b := by
  obtain ⟨-, hinverse⟩ := initialAndFinalPermutationsAreInverses
  have hback := feistel_reverse_swap (roundKeys k dir) (splitHalves (permIP b))
  simp only [Halves.swap] at hback
  rw [desCore, desCore, (hinverse _).2, splitHalves_preoutput, roundKeys_not, hback, preoutput_swap_splitHalves,
    (hinverse b).1]

/-! ### Weak keys -/

/-- R138: a half of equal bits stays as it is under every rotation. -/
theorem rotl28_of_const {x : KeyHalf} (h : x = 0 ∨ x = BitVec.allOnes 28) {s : Nat} (hs : s ≤ 28) :
    rotl28 x s = x := by
  refine eq_of_pos fun i hi hle => ?_
  obtain ⟨hpos, hmax⟩ := rotatedPos_range hs hi hle
  rw [pos_rotl28 x hs hi hle]
  obtain rfl | rfl := h
  · simp [pos]
  · rw [pos, pos, BitVec.getLsbD_allOnes, BitVec.getLsbD_allOnes, decide_eq_true (by omega), decide_eq_true (by omega)]

/-- R138: where no rotation moves the halves, the 16 round keys are equal. -/
theorem keySchedule_eq_replicate {key : Word} (hc : keyC0 key = 0 ∨ keyC0 key = BitVec.allOnes 28)
    (hd : keyD0 key = 0 ∨ keyD0 key = BitVec.allOnes 28) :
    keySchedule key = List.replicate 16 (pc2 (pc1 key)) := by
  refine List.eq_replicate_iff.2 ⟨length_keySchedule key, fun k hk => ?_⟩
  obtain ⟨t, ht, rfl⟩ : ∃ t ∈ shiftTotals, pc2 (rotl28 (keyC0 key) t ++ rotl28 (keyD0 key) t) = k := by
    simpa [keySchedule, keyHalves_eq] using hk
  rw [rotl28_of_const hc (shiftTotals_le t ht), rotl28_of_const hd (shiftTotals_le t ht), keyC0_append_keyD0]

/-- R138: with equal round keys their order does not matter, so the two directions are one function. -/
theorem desCore_dir_of_replicate {key : Word} {k : RoundKey} (h : keySchedule key = List.replicate 16 k) (b : Word) :
    desCore b key false = desCore b key true := by
  simp [desCore, roundKeys, h]

/-- R138: the halves of the four weak keys. -/
theorem weakKeys_halves :
    ∀ key ∈ ([0x0101010101010101, 0xFEFEFEFEFEFEFEFE, 0xE0E0E0E0F1F1F1F1, 0x1F1F1F1F0E0E0E0E] : List Word),
      (keyC0 key = 0 ∨ keyC0 key = BitVec.allOnes 28) ∧ (keyD0 key = 0 ∨ keyD0 key = BitVec.allOnes 28) := by
  simp only [List.forall_mem_cons]
  refine ⟨⟨.inl ?_, .inl ?_⟩, ⟨.inr ?_, .inr ?_⟩, ⟨.inr ?_, .inl ?_⟩, ⟨.inl ?_, .inr ?_⟩, by simp⟩
  all_goals decide +kernel

/-! ### The statements of spec/41_key_schedule.md -/

/-- Settles O51: each round key is one selection of key positions, none of them a parity position. -/
theorem keyScheduleLaws : Obligations.KeyScheduleLaws := by
  refine ⟨getLast?_keyHalves, fun k k' h => ?parity, exists_pos_keySchedule, keySchedule_not, by decide +kernel,
    by decide +kernel⟩
  have hschedule := keySchedule_eq_of_parity h
  exact ⟨hschedule, executeCommand_dout_congr hschedule⟩

/-- Settles O52: the 16 selections together name exactly the positions of PC-1. -/
theorem keySequenceDeterminesTheEffectiveKey : Obligations.KeySequenceDeterminesTheEffectiveKey :=
  keySchedule_eq_iff

/-- Settles O50: the rotation as a concatenation, for 1 and for 2, and the rule's three examples. -/
theorem rotationMovesTheLeftBits : Obligations.RotationMovesTheLeftBits :=
  ⟨fun x => ⟨rotl28_eq_append x (m := 27) rfl, rotl28_eq_append x (m := 26) rfl⟩, by decide, by decide, by decide⟩

/-- Settles O53: halves of equal bits, so equal round keys, so one function that undoes itself. -/
theorem weakKeys : Obligations.WeakKeys := by
  intro key hkey
  obtain ⟨hc, hd⟩ := weakKeys_halves key hkey
  have hequal := keySchedule_eq_replicate hc hd
  refine ⟨⟨_, hequal⟩, fun b => ⟨desCore_dir_of_replicate hequal b, ?_⟩⟩
  exact (desCore_dir_of_replicate hequal (ecbE b key)).trans (desCore_desCore b key false)

end Sys2Proof.Machine

/-! PROOFS. The round core (spec/42_round_core.md): how the rounds run over a key list, how each of the core's steps
meets the complement, and the statements about F and the core. -/

namespace Sys2Proof.Machine

/-! ### The rounds over a key list -/

/-- R144: the last round, its swap undone by the preoutput, leaves `L xor F(R, K)` on the left and `R` on the right. -/
theorem preoutput_feistelRound (h : Halves) (k : RoundKey) :
    preoutput (feistelRound h k) = (h.l ^^^ roundF h.r k) ++ h.r := rfl

theorem feistel_concat (ks : List RoundKey) (last : RoundKey) (h : Halves) :
    feistel (ks ++ [last]) h = feistelRound (feistel ks h) last := by
  rw [feistel, List.foldl_concat, feistel]

/-- The loop on the block and key of the worked example (R143, R144). -/
theorem feistel_workedExample :
    feistel (roundKeys 0x133457799BBCDFF1 false) (splitHalves (permIP 0x0123456789ABCDEF)) =
      ⟨0x43423234, 0x0A4CD995⟩ := by decide +kernel

/-! ### Complements -/

/-- R141: F reads its arguments through `E(R) xor K` alone. -/
theorem roundF_congr {r r' : Half} {k k' : RoundKey} (h : expandE r ^^^ k = expandE r' ^^^ k') :
    roundF r k = roundF r' k' := by
  rw [roundF, roundF, h]

theorem permIP_not (v : Word) : permIP (~~~v) = ~~~(permIP v) := perm_not (by decide) v

theorem permFP_not (v : Word) : permFP (~~~v) = ~~~(permFP v) := perm_not (by decide) v

theorem expandE_not (r : Half) : expandE (~~~r) = ~~~(expandE r) := perm_not (by decide) r

/-- R141: the two complements cancel in `E(R) xor K`. -/
theorem roundF_not (r : Half) (k : RoundKey) : roundF (~~~r) (~~~k) = roundF r k := by
  refine roundF_congr ?_
  rw [expandE_not, ← BitVec.not_xor_left, ← BitVec.not_xor_right, BitVec.not_not]

/-- Both halves complemented. -/
def Halves.compl (h : Halves) : Halves := ⟨~~~h.l, ~~~h.r⟩

/-- R147: F stays as it is, so the complement of `L` alone reaches the new right half. -/
theorem feistelRound_compl (h : Halves) (k : RoundKey) :
    feistelRound h.compl (~~~k) = (feistelRound h k).compl := by
  simp only [feistelRound, Halves.compl, roundF_not, BitVec.not_xor_left]

theorem feistel_compl (ks : List RoundKey) (h : Halves) :
    feistel (ks.map (~~~·)) h.compl = (feistel ks h).compl := by
  induction ks generalizing h with
  | nil => rfl
  | cons k rest ih =>
    calc feistel ((k :: rest).map (~~~·)) h.compl
      _ = feistel (rest.map (~~~·)) (feistelRound h.compl (~~~k)) := rfl
      _ = feistel (rest.map (~~~·)) (feistelRound h k).compl := by rw [feistelRound_compl]
      _ = (feistel (k :: rest) h).compl := ih _

theorem preoutput_compl (h : Halves) : preoutput h.compl = ~~~(preoutput h) := BitVec.not_append.symm

theorem splitHalves_not (x : Word) : splitHalves (~~~x) = (splitHalves x).compl := by
  calc splitHalves (~~~x)
    _ = splitHalves (~~~(preoutput (splitHalves x).swap)) := by rw [Halves.swap, preoutput_swap_splitHalves]
    _ = splitHalves (preoutput (splitHalves x).swap.compl) := by rw [preoutput_compl]
    _ = (splitHalves x).compl := splitHalves_preoutput _

/-- R147: complementing the key complements every round key, in both directions. -/
theorem roundKeys_not_key (key : Word) (dir : Bool) : roundKeys (~~~key) dir = (roundKeys key dir).map (~~~·) := by
  cases dir <;> simp [roundKeys, keySchedule_not]

/-- R147: every step of the core carries the complement through. -/
theorem desCore_not (b k : Word) (dir : Bool) : desCore (~~~b) (~~~k) dir = ~~~(desCore b k dir) := by
  rw [desCore, desCore, permIP_not, splitHalves_not, roundKeys_not_key, feistel_compl, preoutput_compl, permFP_not]

/-! ### The statements of spec/42_round_core.md -/

/-- Settles O56: each direction undoes the other, so decryption is the inverse function of encryption. -/
theorem coreRoundTrip : Obligations.CoreRoundTrip := by
  have hdec (b k : Word) : desCore (desCore b k false) k true = b := desCore_desCore b k false
  have henc (b k : Word) : desCore (desCore b k true) k false = b := desCore_desCore b k true
  refine ⟨fun b k => ⟨hdec b k, henc b k⟩, fun k => ?_, by decide +kernel⟩
  exact Function.bijective_iff_has_inverse.2 ⟨fun c => desCore c k true, fun b => hdec b k, fun c => henc c k⟩

/-- Settles O57: the complement passes through the core, and the rule's example. -/
theorem coreComplementation : Obligations.CoreComplementation :=
  ⟨desCore_not, by decide +kernel⟩

/-- Settles O54: F's values, F through `E(R) xor K`, and two right halves that F sends to one value under the key 0. -/
theorem roundFunctionCorners : Obligations.RoundFunctionCorners := by
  refine ⟨by decide +kernel, by decide +kernel, by decide +kernel, by decide +kernel,
    fun r r' k k' => roundF_congr, roundF_not, 0, 0x43E80000, 0x5A880000, by decide, by decide +kernel⟩

/-- Settles O55: the last round without its swap, and the worked example, whose two last halves differ. -/
theorem lastSwapIsUndone : Obligations.LastSwapIsUndone := by
  refine ⟨fun b k dir ks last hkeys => ?skipped, 0x0123456789ABCDEF, 0x133457799BBCDFF1, ?notUndone⟩
  case skipped => rw [desCore, hkeys, feistel_concat, preoutput_feistelRound]
  case notUndone =>
    rw [desCore, feistel_workedExample]
    decide +kernel

end Sys2Proof.Machine

/-! PROOFS. The modes, the four commands and the boundary operations (spec/43_modes_commands.md): how each mode undoes
itself, what a boundary operation does with operands that decode and with one that does not, and the statements about
them. -/

namespace Sys2Proof.Machine

/-! ### The laws of the modes -/

/-- R170: ECB decryption undoes ECB encryption. -/
theorem ecbD_ecbE (b k : Word) : ecbD (ecbE b k) k = b := desCore_desCore b k false

/-- R170: ECB encryption undoes ECB decryption. -/
theorem ecbE_ecbD (c k : Word) : ecbE (ecbD c k) k = c := desCore_desCore c k true

theorem ecbE_injective (k : Word) : Function.Injective (ecbE · k) :=
  Function.LeftInverse.injective (g := (ecbD · k)) fun b => ecbD_ecbE b k

/-- R138: under the weak key of R166 and R167 the two directions of ECB are one function. -/
theorem ecbD_weakKey (b : Word) : ecbD b 0x0101010101010101 = ecbE b 0x0101010101010101 := by
  obtain ⟨-, hblock⟩ := weakKeys 0x0101010101010101 (by simp)
  exact (hblock b).1.symm

/-- R138: so under that key a second encryption returns the block. -/
theorem ecbE_ecbE_weakKey (b : Word) : ecbE (ecbE b 0x0101010101010101) 0x0101010101010101 = b := by
  rw [← ecbD_weakKey (ecbE b _), ecbD_ecbE]

/-- R162: CBC encryption is ECB encryption of the block xor the IV. -/
theorem cbcE_eq_ecbE (b k v : Word) : cbcE b k v = ecbE (b ^^^ v) k := rfl

/-- R163: CBC decryption is ECB decryption, then xor the IV. -/
theorem cbcD_eq_ecbD (c k v : Word) : cbcD c k v = ecbD c k ^^^ v := rfl

/-- R170: CBC decryption undoes CBC encryption under the same IV. -/
theorem cbcD_cbcE (b k v : Word) : cbcD (cbcE b k v) k v = b := by
  rw [cbcD_eq_ecbD, cbcE_eq_ecbE, ecbD_ecbE, BitVec.xor_assoc, BitVec.xor_self, BitVec.xor_zero]

theorem cbcE_zero_iv (b k : Word) : cbcE b k 0 = ecbE b k := by
  rw [cbcE_eq_ecbE, BitVec.ofNat_eq_ofNat, BitVec.xor_zero]

theorem cbcD_zero_iv (c k : Word) : cbcD c k 0 = ecbD c k := by
  rw [cbcD_eq_ecbD, BitVec.ofNat_eq_ofNat, BitVec.xor_zero]

/-- The worked example of R166. -/
theorem ecbE_workedExample : ecbE 0x0123456789ABCDEF 0x133457799BBCDFF1 = 0x85E813540F0AB405 := by
  rw [ecbE, desCore, feistel_workedExample]
  decide +kernel

/-- The worked example of R167, from R166's by the round trip. -/
theorem ecbD_workedExample : ecbD 0x85E813540F0AB405 0x133457799BBCDFF1 = 0x0123456789ABCDEF := by
  rw [← ecbE_workedExample, ecbD_ecbE]

/-- The worked example of R168. -/
theorem cbcE_workedExample : cbcE 0x4E6F772069732074 0x0123456789ABCDEF 0x1234567890ABCDEF = 0xE5C7CDDE872BF27C := by
  decide +kernel

/-- The worked example of R169, from R168's by the round trip. -/
theorem cbcD_workedExample : cbcD 0xE5C7CDDE872BF27C 0x0123456789ABCDEF 0x1234567890ABCDEF = 0x4E6F772069732074 := by
  rw [← cbcE_workedExample, cbcD_cbcE]

/-! ### The result of a command word -/

/-- R165: the result by MODE and DIR, each mode on the core. -/
theorem commandResult_eq_desCore (mode dir : Bool) (o : Operands) :
    commandResult mode dir o =
      if mode then
        if dir then desCore o.b o.k true ^^^ o.v else desCore (o.b ^^^ o.v) o.k false
      else desCore o.b o.k dir := by
  cases mode <;> cases dir <;> rfl

/-- R165: a legal word written to CMD, as a whole engine. -/
theorem portWrite_command {w : Word} (h : cmdReserved w = 0) (e : Engine) :
    e.portWrite 4 w = ⟨e.key, e.din, e.iv, commandResult (cmdMode w) (cmdDir w) e.sample, true, 0⟩ :=
  executeCommand_legal h e

/-! ### The operands of a boundary operation -/

/-- R100: the decoder's only errors. -/
theorem hexDecode_error {n : Nat} {s : Text} {c : ErrorCode} (h : hexDecode n s = .error c) :
    c = .invalidEncoding ∨ c = .invalidLength := by
  cases hds : hexDigits s with
  | none =>
    rw [hexDecode_of_not_digits n ((hexDigits_eq_none_iff s).1 hds)] at h
    cases h
    exact .inl rfl
  | some ds =>
    rw [hexDecode_of_digits n hds] at h
    split_ifs at h
    cases h
    exact .inr rfl

/-- An operand that does not decode stops the operation (R171, R207). -/
theorem withOperand_error {s : Text} {c : ErrorCode} (h : hexDecode 64 s = .error c) (name : OperandName)
    (e : Engine) (go : Word → BoundaryOutcome) : withOperand name s e go = ⟨.error ⟨c, name⟩, e⟩ := by
  rw [withOperand, h]
  rfl

/-- Decoding an operand does not look at the engine: the result is the same if what follows gives the same. -/
theorem withOperand_result_congr (name : OperandName) (s : Text) (e e' : Engine) {go go' : Word → BoundaryOutcome}
    (h : ∀ v, (go v).result = (go' v).result) :
    (withOperand name s e go).result = (withOperand name s e' go').result := by
  cases hs : hexDecode 64 s with
  | error c => rw [withOperand_error hs, withOperand_error hs]
  | ok v => rw [withOperand_ok hs, withOperand_ok hs, h]

/-- R175: decoding an operand never reports ILLEGAL_COMMAND. -/
theorem withOperand_ne_illegalCommand (name : OperandName) (s : Text) (e : Engine) {go : Word → BoundaryOutcome}
    {x : OperandName} (h : ∀ v, (go v).result ≠ .error ⟨.illegalCommand, x⟩) :
    (withOperand name s e go).result ≠ .error ⟨.illegalCommand, x⟩ := by
  cases hs : hexDecode 64 s with
  | error c =>
    rw [withOperand_error hs]
    obtain rfl | rfl := hexDecode_error hs <;> simp
  | ok v =>
    rw [withOperand_ok hs]
    exact h v

/-- R171: the value returned is DOUT. -/
theorem returnDout_eq (e : Engine) : returnDout e = ⟨.ok (hexEncode 64 e.dout), e⟩ := rfl

/-! ### The boundary operations in ECB -/

theorem boundaryECB_data_error {p : Text} {c : ErrorCode} (hp : hexDecode 64 p = .error c) (w : Word) (k : Text)
    (e : Engine) : boundaryECB w p k e = ⟨.error ⟨c, .data⟩, e⟩ := withOperand_error hp _ e _

theorem boundaryECB_key_error {p k : Text} {b : Word} {c : ErrorCode} (hp : hexDecode 64 p = .ok b)
    (hk : hexDecode 64 k = .error c) (w : Word) (e : Engine) :
    boundaryECB w p k e = ⟨.error ⟨c, .key⟩, e⟩ := by
  rw [boundaryECB, withOperand_ok hp, withOperand_error hk]

/-- R171, R172: operands that decode are written to KEY and DIN, and the command's result is returned. -/
theorem boundaryECB_ok {p k : Text} {b kv : Word} (hp : hexDecode 64 p = .ok b) (hk : hexDecode 64 k = .ok kv)
    {w : Word} (hlegal : cmdReserved w = 0) {r : Word} {e : Engine}
    (hr : commandResult (cmdMode w) (cmdDir w) ⟨kv, b, e.iv⟩ = r) :
    boundaryECB w p k e = ⟨.ok (hexEncode 64 r), ⟨kv, b, e.iv, r, true, 0⟩⟩ := by
  rw [boundaryECB, withOperand_ok hp, withOperand_ok hk, portWrite_command hlegal, returnDout_eq, ← hr]
  rfl

theorem encryptECB_ok {p k : Text} {b kv : Word} (hp : hexDecode 64 p = .ok b) (hk : hexDecode 64 k = .ok kv)
    (e : Engine) :
    encryptECB p k e = ⟨.ok (hexEncode 64 (ecbE b kv)), ⟨kv, b, e.iv, ecbE b kv, true, 0⟩⟩ :=
  boundaryECB_ok hp hk (by decide) rfl

theorem decryptECB_ok {c k : Text} {b kv : Word} (hc : hexDecode 64 c = .ok b) (hk : hexDecode 64 k = .ok kv)
    (e : Engine) :
    decryptECB c k e = ⟨.ok (hexEncode 64 (ecbD b kv)), ⟨kv, b, e.iv, ecbD b kv, true, 0⟩⟩ :=
  boundaryECB_ok hc hk (by decide) rfl

/-- R34, R175: an ECB command does not read the one register that its operation does not write. -/
theorem boundaryECB_result_congr {w : Word} (hlegal : cmdReserved w = 0) (hmode : cmdMode w = false) (p k : Text)
    (e e' : Engine) : (boundaryECB w p k e).result = (boundaryECB w p k e').result := by
  refine withOperand_result_congr .data p e e' fun b => withOperand_result_congr .key k e e' fun kv => ?_
  rw [portWrite_command hlegal, portWrite_command hlegal, returnDout_eq, returnDout_eq, hmode]
  have hresult : commandResult false (cmdDir w) ⟨kv, b, e.iv⟩ = commandResult false (cmdDir w) ⟨kv, b, e'.iv⟩ := by
    apply commandResult_congr <;> simp
  exact congrArg (fun r => Except.ok (hexEncode 64 r)) hresult

theorem boundaryECB_ne_illegalCommand (w : Word) (p k : Text) (e : Engine) (x : OperandName) :
    (boundaryECB w p k e).result ≠ .error ⟨.illegalCommand, x⟩ :=
  withOperand_ne_illegalCommand .data p e fun _ => withOperand_ne_illegalCommand .key k e fun _ => nofun

/-! ### The boundary operations in CBC -/

theorem boundaryCBC_data_error {p : Text} {c : ErrorCode} (hp : hexDecode 64 p = .error c) (w : Word) (k iv : Text)
    (e : Engine) : boundaryCBC w p k iv e = ⟨.error ⟨c, .data⟩, e⟩ := withOperand_error hp _ e _

theorem boundaryCBC_key_error {p k : Text} {b : Word} {c : ErrorCode} (hp : hexDecode 64 p = .ok b)
    (hk : hexDecode 64 k = .error c) (w : Word) (iv : Text) (e : Engine) :
    boundaryCBC w p k iv e = ⟨.error ⟨c, .key⟩, e⟩ := by
  rw [boundaryCBC, withOperand_ok hp, withOperand_error hk]

theorem boundaryCBC_iv_error {p k iv : Text} {b kv : Word} {c : ErrorCode} (hp : hexDecode 64 p = .ok b)
    (hk : hexDecode 64 k = .ok kv) (hiv : hexDecode 64 iv = .error c) (w : Word) (e : Engine) :
    boundaryCBC w p k iv e = ⟨.error ⟨c, .iv⟩, e⟩ := by
  rw [boundaryCBC, withOperand_ok hp, withOperand_ok hk, withOperand_error hiv]

/-- R173, R174: operands that decode are written to KEY, DIN and IV, and the command's result is returned. -/
theorem boundaryCBC_ok {p k iv : Text} {b kv v : Word} (hp : hexDecode 64 p = .ok b) (hk : hexDecode 64 k = .ok kv)
    (hiv : hexDecode 64 iv = .ok v) {w : Word} (hlegal : cmdReserved w = 0) (e : Engine) {r : Word}
    (hr : commandResult (cmdMode w) (cmdDir w) ⟨kv, b, v⟩ = r) :
    boundaryCBC w p k iv e = ⟨.ok (hexEncode 64 r), ⟨kv, b, v, r, true, 0⟩⟩ := by
  rw [boundaryCBC, withOperand_ok hp, withOperand_ok hk, withOperand_ok hiv, portWrite_command hlegal,
    returnDout_eq, ← hr]
  rfl

theorem encryptCBC_ok {p k iv : Text} {b kv v : Word} (hp : hexDecode 64 p = .ok b) (hk : hexDecode 64 k = .ok kv)
    (hiv : hexDecode 64 iv = .ok v) (e : Engine) :
    encryptCBC p k iv e = ⟨.ok (hexEncode 64 (cbcE b kv v)), ⟨kv, b, v, cbcE b kv v, true, 0⟩⟩ :=
  boundaryCBC_ok hp hk hiv (by decide) e rfl

theorem decryptCBC_ok {c k iv : Text} {b kv v : Word} (hc : hexDecode 64 c = .ok b) (hk : hexDecode 64 k = .ok kv)
    (hiv : hexDecode 64 iv = .ok v) (e : Engine) :
    decryptCBC c k iv e = ⟨.ok (hexEncode 64 (cbcD b kv v)), ⟨kv, b, v, cbcD b kv v, true, 0⟩⟩ :=
  boundaryCBC_ok hc hk hiv (by decide) e rfl

/-- R175: a CBC operation writes every register that its command reads. -/
theorem boundaryCBC_result_congr {w : Word} (hlegal : cmdReserved w = 0) (p k iv : Text) (e e' : Engine) :
    (boundaryCBC w p k iv e).result = (boundaryCBC w p k iv e').result := by
  refine withOperand_result_congr .data p e e' fun b => withOperand_result_congr .key k e e' fun kv =>
    withOperand_result_congr .iv iv e e' fun v => ?_
  rw [portWrite_command hlegal, portWrite_command hlegal]
  rfl

theorem boundaryCBC_ne_illegalCommand (w : Word) (p k iv : Text) (e : Engine) (x : OperandName) :
    (boundaryCBC w p k iv e).result ≠ .error ⟨.illegalCommand, x⟩ :=
  withOperand_ne_illegalCommand .data p e fun _ => withOperand_ne_illegalCommand .key k e fun _ =>
    withOperand_ne_illegalCommand .iv iv e fun _ => nofun

/-! ### The statements of spec/43_modes_commands.md -/

/-- Settles O43: the returned string decodes to the result, which the other direction of the mode undoes. -/
theorem boundaryRoundTrip : Obligations.BoundaryRoundTrip := by
  intro p k iv b kv v e e' hp hk hiv
  have hreturned (r : Word) : hexDecode 64 (hexEncode 64 r) = .ok r := hexDecode_hexEncode rfl r
  refine ⟨⟨hexEncode 64 (ecbE b kv), ?_, ?_⟩, ⟨hexEncode 64 (cbcE b kv v), ?_, ?_⟩⟩
  · rw [encryptECB_ok hp hk]
  · rw [decryptECB_ok (hreturned _) hk, ecbD_ecbE]
  · rw [encryptCBC_ok hp hk hiv]
  · rw [decryptCBC_ok (hreturned _) hk hiv, cbcD_cbcE]

/-- Settles O16: the write of CMD is `ExecuteCommand`, by whether a reserved bit is set. -/
theorem executeCommandByWord : Obligations.ExecuteCommandByWord := by
  intro w s
  have hexec : exec (decodePort (packPort true 4 w)) s = .next (s.ackWrite (s.engine.executeCommand w)) :=
    exec_packedWrite 4 w s
  rw [hexec]
  by_cases hlegal : w.extractLsb' 2 62 = 0
  · rw [executeCommand_legal hlegal, commandResult_eq_desCore, if_neg (not_not_intro hlegal)]
    rfl
  · rw [executeCommand_illegal hlegal, if_pos hlegal]
    rfl

/-- Settles O17: the core reads the key through its schedule, and a weak key's encryption undoes itself. -/
theorem encEcbCompletes : Obligations.EncEcbCompletes := by
  refine ⟨by decide, fun _ => rfl, fun b k k' h => ?parity, ecbE_ecbE_weakKey, by decide +kernel, ecbE_workedExample⟩
  exact desCore_congr (keySchedule_eq_of_parity h) b false

/-- Settles O18: each block is the encryption of its decryption, and a weak key has one direction. -/
theorem decEcbCompletes : Obligations.DecEcbCompletes :=
  ⟨by decide, fun _ => rfl, fun c k => ⟨ecbD c k, ecbE_ecbD c k, rfl⟩, ecbD_weakKey, ecbD_workedExample⟩

/-- Settles O38: the two operations by which operand fails, and the worked examples from any engine. -/
theorem boundaryEcbContract : Obligations.BoundaryEcbContract := by
  refine ⟨fun p k e => ⟨fun c hp => ?data, fun b c hp hk => ?key, fun b kv hp hk => ?done⟩, fun e => ⟨?enc, ?dec⟩⟩
  case data => exact ⟨boundaryECB_data_error hp _ k e, boundaryECB_data_error hp _ k e⟩
  case key => exact ⟨boundaryECB_key_error hp hk _ e, boundaryECB_key_error hp hk _ e⟩
  case done => exact ⟨encryptECB_ok hp hk e, decryptECB_ok hp hk e⟩
  case enc =>
    rw [encryptECB_ok (b := 0x0123456789ABCDEF) (kv := 0x133457799BBCDFF1) (by decide) (by decide), ecbE_workedExample]
    exact congrArg Except.ok (by decide)
  case dec =>
    rw [decryptECB_ok (b := 0x85E813540F0AB405) (kv := 0x133457799BBCDFF1) (by decide) (by decide), ecbD_workedExample]
    exact congrArg Except.ok (by decide)

/-- Settles O39: the two operations by which operand fails, and the worked examples from any engine. -/
theorem boundaryCbcContract : Obligations.BoundaryCbcContract := by
  refine ⟨fun p k iv e => ⟨fun c hp => ?data, fun b c hp hk => ?key, fun b kv c hp hk hiv => ?iv,
    fun b kv v hp hk hiv => ?done⟩, fun e => ⟨?enc, ?dec⟩⟩
  case data => exact ⟨boundaryCBC_data_error hp _ k iv e, boundaryCBC_data_error hp _ k iv e⟩
  case key => exact ⟨boundaryCBC_key_error hp hk _ iv e, boundaryCBC_key_error hp hk _ iv e⟩
  case iv => exact ⟨boundaryCBC_iv_error hp hk hiv _ e, boundaryCBC_iv_error hp hk hiv _ e⟩
  case done => exact ⟨encryptCBC_ok hp hk hiv e, decryptCBC_ok hp hk hiv e⟩
  case enc =>
    rw [encryptCBC_ok (b := 0x4E6F772069732074) (kv := 0x0123456789ABCDEF) (v := 0x1234567890ABCDEF) (by decide)
      (by decide) (by decide), cbcE_workedExample]
    exact congrArg Except.ok (by decide)
  case dec =>
    rw [decryptCBC_ok (b := 0xE5C7CDDE872BF27C) (kv := 0x0123456789ABCDEF) (v := 0x1234567890ABCDEF) (by decide)
      (by decide) (by decide), cbcD_workedExample]
    exact congrArg Except.ok (by decide)

/-- Settles O41: the operations write what their commands read, and only the decoder reports an error. -/
theorem boundaryResultIgnoresTheEngine : Obligations.BoundaryResultIgnoresTheEngine := by
  intro p k iv e e'
  refine ⟨boundaryECB_result_congr (by decide) (by decide) p k e e',
    boundaryECB_result_congr (by decide) (by decide) p k e e',
    boundaryCBC_result_congr (by decide) p k iv e e', boundaryCBC_result_congr (by decide) p k iv e e', ?legal⟩
  simp only [List.forall_mem_cons]
  exact ⟨boundaryECB_ne_illegalCommand 0 p k e, boundaryECB_ne_illegalCommand 1 p k e,
    boundaryCBC_ne_illegalCommand 2 p k iv e, boundaryCBC_ne_illegalCommand 3 p k iv e, nofun⟩

/-- Settles O58: the round trips, a command that repeats itself, and a cipher that keeps different blocks different. -/
theorem modeLaws : Obligations.ModeLaws := by
  refine ⟨ecbD_ecbE, cbcD_cbcE, fun s => ?twice, fun b k v v' hne heq => ?ivs,
    fun b k => ⟨cbcE_zero_iv b k, cbcD_zero_iv b k⟩⟩
  case twice => exact ⟨_, _, rfl, repeatedTransactionChangesNothing .encEcb s _ rfl, rfl⟩
  case ivs => exact hne ((BitVec.xor_right_inj b).1 (ecbE_injective k heq))

/-- Settles O19: the block that each of the three IVs leaves to ECB, and the rule's example. -/
theorem encCbcCompletes : Obligations.EncCbcCompletes := by
  refine ⟨by decide, fun _ => rfl, fun b k => ⟨cbcE_zero_iv b k, ?sameBlock, ?complement⟩, cbcE_workedExample⟩
  case sameBlock =>
    rw [cbcE_eq_ecbE, BitVec.xor_self]
    rfl
  case complement =>
    rw [cbcE_eq_ecbE, ← BitVec.not_xor_right, BitVec.xor_self]
    rfl

/-- Settles O20: with IV = 0 the last xor changes nothing, and the rule's example. -/
theorem decCbcCompletes : Obligations.DecCbcCompletes :=
  ⟨by decide, fun _ => rfl, cbcD_zero_iv, cbcD_workedExample⟩

end Sys2Proof.Machine

/-! PROOFS. Errors and exceptional conditions (spec/60_exceptions.md): a machine inside the spec never stops, an illegal
command is only reported, a boundary error touches no register, and engines do not touch each other. -/

namespace Sys2Proof.Machine

/-! ### Runs inside the spec -/

/-- An action inside the spec puts signals on the port (R58). -/
theorem HostAction.exists_signals_of_inSpec {a : HostAction} (h : a.InSpec) :
    ∃ p, a.signals (Config.baseAddress 0) = .ok p := by
  cases a with
  | port p => exact ⟨p, rfl⟩
  | bus b => exact ⟨b.signals (Config.baseAddress 0), if_pos h⟩

/-- A step whose pending actions are inside the spec completes and takes the first of them off the list (R205). -/
theorem step_of_inSpec {s : State} (h : ∀ a ∈ s.pending, a.InSpec) :
    ∃ s', step s = .next s' ∧ s'.pending = s.pending.tail := by
  obtain ⟨hpend, hs⟩ | ⟨a, rest, p, hpend, -, hs⟩ | ⟨b, rest, hpend, hout, -⟩ := step_cases s
  · exact ⟨s.idle, hs, by simp [hpend]⟩
  · obtain ⟨s', hport, -, hpending⟩ := portStep_drive p { s with pending := rest }
    exact ⟨s', hs.trans hport, by simp [hpend, hpending]⟩
  · have hin : b.wellFormed (Config.baseAddress 0) = true := h (.bus b) (by simp [hpend])
    exact absurd hin (by simp [hout])

/-! ### A legal command after an illegal one -/

/-- The report of an illegal command leaves the operands that the next command samples (R208, R237). -/
@[simp] theorem Engine.sample_raiseIllegalCommand (e : Engine) : e.raiseIllegalCommand.sample = e.sample := rfl

/-- A completion overwrites the report of an illegal command (R209). -/
@[simp] theorem Engine.completeCommand_raiseIllegalCommand (r : Word) (e : Engine) :
    e.raiseIllegalCommand.completeCommand r = e.completeCommand r := rfl

/-- CMD.ILLEGAL only reports the error, and its write completes (R203, R208). -/
theorem exec_cmdIllegal (w : Word) (s : State) :
    exec (.cmdIllegal w) s = .next (s.ackWrite s.engine.raiseIllegalCommand) := rfl

/-- STATUS after the report of an illegal command: ERR is 3 and VALID is 0 (R26, R208). -/
theorem Engine.portRead_status_raiseIllegalCommand (e : Engine) : e.raiseIllegalCommand.portRead 5 = 0x30 := by
  change ((3 : BitVec 4) ++ 0#3 ++ BitVec.ofBool false).setWidth 64 = 0x30#64
  decide

/-- The four commands are the decoded legal words (R73). -/
theorem exists_decodeCommand_of_command {i : Instr} (h : i = .encEcb ∨ i = .decEcb ∨ i = .encCbc ∨ i = .decCbc) :
    ∃ w, cmdReserved w = 0 ∧ i = decodeCommand w := by
  obtain rfl | rfl | rfl | rfl := h
  · exact ⟨0, by decide, rfl⟩
  · exact ⟨1, by decide, rfl⟩
  · exact ⟨2, by decide, rfl⟩
  · exact ⟨3, by decide, rfl⟩

/-- A legal word completes with the result of the operands it samples (R165). -/
theorem exec_decodeCommand_legal {w : Word} (h : cmdReserved w = 0) (s : State) :
    exec (decodeCommand w) s =
      .next (s.ackWrite (s.engine.completeCommand (commandResult (cmdMode w) (cmdDir w) s.engine.sample))) := by
  rw [exec_decodeCommand, executeCommand_legal h]

/-! ### Errors of the boundary operations -/

/-- R207: if the outcome is an error, the engine is still `e` and the code is one of the boundary's own. -/
def BoundaryOutcome.ErrorLeaves (e : Engine) (o : BoundaryOutcome) : Prop :=
  ∀ x, o.result = .error x → o.engine = e ∧ (x.code.code = 1 ∨ x.code.code = 2)

theorem returnDout_errorLeaves (e e' : Engine) : (returnDout e').ErrorLeaves e := nofun

/-- Decoding an operand adds only errors that leave the engine (R171, R207). -/
theorem withOperand_errorLeaves (name : OperandName) (s : Text) {e : Engine} {go : Word → BoundaryOutcome}
    (h : ∀ v, (go v).ErrorLeaves e) : (withOperand name s e go).ErrorLeaves e := by
  cases hs : hexDecode 64 s with
  | error c =>
    rw [withOperand_error hs]
    rintro x ⟨⟩
    obtain rfl | rfl := hexDecode_error hs
    · exact ⟨rfl, .inl rfl⟩
    · exact ⟨rfl, .inr rfl⟩
  | ok v =>
    rw [withOperand_ok hs]
    exact h v

theorem boundaryECB_errorLeaves (w : Word) (p k : Text) (e : Engine) : (boundaryECB w p k e).ErrorLeaves e :=
  withOperand_errorLeaves .data p fun _ => withOperand_errorLeaves .key k fun _ => returnDout_errorLeaves e _

theorem boundaryCBC_errorLeaves (w : Word) (p k iv : Text) (e : Engine) : (boundaryCBC w p k iv e).ErrorLeaves e :=
  withOperand_errorLeaves .data p fun _ => withOperand_errorLeaves .key k fun _ =>
    withOperand_errorLeaves .iv iv fun _ => returnDout_errorLeaves e _

/-! ### Several engines -/

/-- A step of engine `i` writes back what its own step leaves, and nothing else (R216). -/
theorem Platform.step_eq_next_iff {n : Nat} {i : Fin n} {p q : Platform n} :
    Platform.step i p = .next q ↔ ∃ s, stepAt (Config.baseAddress i) p[i] = .next s ∧ p.set i s = q := by
  rw [Platform.step]
  cases stepAt (Config.baseAddress i) p[i] <;> simp

/-! ### The statements of spec/60_exceptions.md -/

/-- Settles O32, by induction on the number of steps: what is left of the list is still inside the spec. -/
theorem actionsInSpecNeverStop : Obligations.ActionsInSpecNeverStop := by
  intro n
  induction n with
  | zero => exact fun s _ => ⟨s, run_zero s, rfl⟩
  | succ n ih =>
    intro s hin
    obtain ⟨t, hstep, htail⟩ := step_of_inSpec hin
    have htin : ∀ a ∈ t.pending, a.InSpec := fun a ha => hin a (List.mem_of_mem_tail (htail ▸ ha))
    obtain ⟨s', hrun, hdrop⟩ := ih t htin
    exact ⟨s', (run_succ n hstep).trans hrun, by rw [hdrop, htail, List.drop_tail]⟩

/-- Settles O35: each engine steps on its own state, and writes at different positions commute. -/
theorem enginesAreIndependent : Obligations.EnginesAreIndependent := by
  intro n i j p q hne hi
  have hval : i.val ≠ j.val := Fin.val_ne_of_ne hne
  obtain ⟨s, hs, rfl⟩ := Platform.step_eq_next_iff.1 hi
  have hj : (p.set i s)[j] = p[j] := Vector.getElem_set_ne i.isLt j.isLt hval
  refine ⟨hj, fun q' hq' => ?_⟩
  obtain ⟨t, ht, rfl⟩ := Platform.step_eq_next_iff.1 hq'
  have hi' : (p.set j t)[i] = p[i] := Vector.getElem_set_ne j.isLt i.isLt hval.symm
  refine ⟨(p.set i s).set j t, Platform.step_eq_next_iff.2 ⟨t, hj ▸ ht, rfl⟩,
    Platform.step_eq_next_iff.2 ⟨s, hi' ▸ hs, ?_⟩⟩
  exact (Vector.set_comm s t hval).symm

/-- Settles O40: an error comes from decoding an operand, before any register is written. -/
theorem boundaryErrorLeavesTheEngine : Obligations.BoundaryErrorLeavesTheEngine := by
  intro p k iv e x
  simp only [List.forall_mem_cons]
  exact ⟨boundaryECB_errorLeaves 0 p k e x, boundaryECB_errorLeaves 1 p k e x, boundaryCBC_errorLeaves 2 p k iv e x,
    boundaryCBC_errorLeaves 3 p k iv e x, nofun⟩

/-- Settles O21: the effect, the decoder's row, and what STATUS and the three corner words compute to. -/
theorem cmdIllegalCompletes : Obligations.CmdIllegalCompletes := by
  refine ⟨exec_cmdIllegal, fun w hreserved => ?decoded,
    Engine.portRead_status_raiseIllegalCommand, by decide, by decide, by decide⟩
  exact (decodePort_write 4 w).trans (decodeCommand_of_reserved hreserved)

/-- Settles O24: the illegal command leaves the operands, and the legal one overwrites what it reported. -/
theorem legalCommandRecovers : Obligations.LegalCommandRecovers := by
  intro w s s' i hi h
  cases (exec_cmdIllegal w s).symm.trans h
  obtain ⟨u, hu, rfl⟩ := exists_decodeCommand_of_command hi
  refine ⟨?same, _, exec_decodeCommand_legal hu _, rfl, rfl⟩
  rw [exec_decodeCommand_legal hu, exec_decodeCommand_legal hu, State.ackWrite_engine, State.ackWrite_ackWrite,
    Engine.sample_raiseIllegalCommand, Engine.completeCommand_raiseIllegalCommand]

end Sys2Proof.Machine

/-! PROOFS. Reset and hazards (spec/70_reset_and_hazards.md): a step under reset leaves nothing of the engine, and a
read sees the transaction right before it. -/

namespace Sys2Proof.Machine

/-! ### A read right after a write -/

/-- Two steps over an offered write and an offered read answer with what the write left (R59, R238). -/
theorem run_write_read (s : State) (i j : RegIndex) (v r : Word) (rest : List HostAction) :
    run 2 { s with
        pending := .port (.ofWord (packPort true i v)) :: .port (.ofWord (packPort false j r)) :: rest } =
      .next ⟨s.engine.portWrite i v, rest, .ackRead ((s.engine.portWrite i v).portRead j)⟩ := by
  rw [run_write, run_read, run_zero]

/-- STATUS after a completion: VALID is 1 and ERR is 0 (R26, R165). -/
theorem Engine.portRead_status_completeCommand (x : Word) (e : Engine) : (e.completeCommand x).portRead 5 = 0x1 := by
  change ((0 : BitVec 4) ++ 0#3 ++ BitVec.ofBool true).setWidth 64 = 0x1#64
  decide

/-- STATUS after a command says whether its word was legal (R26, R165, R208). -/
theorem Engine.portRead_status_executeCommand (w : Word) (e : Engine) :
    (e.executeCommand w).portRead 5 = if cmdReserved w = 0 then 0x1 else 0x30 := by
  by_cases h : cmdReserved w = 0
  · rw [if_pos h, executeCommand_legal h, portRead_status_completeCommand]
  · rw [if_neg h, executeCommand_illegal h, portRead_status_raiseIllegalCommand]

/-! ### Reset -/

/-- Under reset no transaction is accepted and every register takes its reset value (R230, R231). -/
theorem portStep_of_rst {p : PortSignals} (h : p.rst = true) (s : State) : portStep p s = .next s.applyReset :=
  if_pos h

/-! ### The statements of spec/70_reset_and_hazards.md -/

/-- Settles O15: each clause is a write and the read after it, and STATUS reports the command's outcome. -/
theorem readAfterWriteSeesIt : Obligations.ReadAfterWriteSeesIt := by
  intro s v r rest
  refine ⟨run_write_read s 0 0 v r rest, run_write_read s 1 1 v r rest, run_write_read s 2 2 v r rest,
    run_write_read s 4 3 v r rest, ?status⟩
  rw [← s.engine.portRead_status_executeCommand v]
  exact run_write_read s 4 5 v r rest

/-- Settles O9: the step is the port's step on the signals, and reset wins over the transaction on them. -/
theorem resetZeroesEveryRegister : Obligations.ResetZeroesEveryRegister := by
  refine ⟨fun ⟨e, pending, a⟩ p rest hpend hrst => ?step, rfl⟩
  cases hpend
  exact (step_port ⟨e, rest, a⟩ p rest).trans (portStep_of_rst hrst _)

end Sys2Proof.Machine

/-! PROOFS. The invariant of STATUS over every step, the bits of a read of STATUS, and the machine's step as one
instruction, no transaction or an idle cycle (spec/10_state.md, spec/20_memory.md, spec/70_reset_and_hazards.md). -/

namespace Sys2Proof.Machine

/-! ### The legal contents of STATUS -/

/-- Reset is the case of no command yet: VALID, ERR and DOUT are 0 (R231, R239). -/
theorem Engine.statusLegal_reset : Engine.reset.StatusLegal := .inr (.inr ⟨rfl, rfl, rfl⟩)

/-- A command leaves STATUS legal, whatever STATUS held before it (R27, R28, R165, R208). -/
theorem Engine.executeCommand_statusLegal (w : Word) (e : Engine) : (e.executeCommand w).StatusLegal := by
  obtain ⟨-, he⟩ | ⟨-, r, he⟩ := executeCommand_cases w e <;> rw [he]
  · exact .inr (.inl ⟨e.raiseIllegalCommand_valid, e.raiseIllegalCommand_err⟩)
  · exact .inl ⟨e.completeCommand_valid r, e.completeCommand_err r⟩

/-- The invariant reads DOUT, VALID and ERR only. -/
theorem Engine.StatusLegal.of_results {e e' : Engine} (h : e.StatusLegal)
    (hresults : e'.dout = e.dout ∧ e'.valid = e.valid ∧ e'.err = e.err) : e'.StatusLegal := by
  obtain ⟨hdout, hvalid, herr⟩ := hresults
  rwa [StatusLegal, hdout, hvalid, herr]

/-- The signals of one step keep STATUS legal: reset and a command make it legal, and nothing else touches it. -/
theorem Engine.StatusLegal.drive {e : Engine} (h : e.StatusLegal) (p : PortSignals) : (e.drive p).StatusLegal := by
  cases hr : p.rst with
  | true =>
    rw [drive_of_rst hr]
    exact statusLegal_reset
  | false =>
    cases hc : p.commandWord with
    | some w =>
      rw [drive_of_commandWord hc]
      exact e.executeCommand_statusLegal w
    | none => exact h.of_results (e.drive_results hr hc)

/-! ### The bits of STATUS -/

/-- R26: VALID at bit 0, ERR at bits 7:4, and 0 elsewhere. -/
theorem Engine.getLsbD_statusWord (e : Engine) {i : Nat} (hi : i < 64) :
    e.statusWord.getLsbD i =
      if i = 0 then e.valid else if 4 ≤ i ∧ i < 8 then e.err.getLsbD (i - 4) else false := by
  rw [statusWord, BitVec.getLsbD_setWidth, decide_eq_true hi, Bool.true_and, BitVec.getLsbD_append,
    BitVec.getLsbD_append]
  obtain rfl | ⟨hpos, hlow⟩ | ⟨herr, htop⟩ | hpast : i = 0 ∨ (0 < i ∧ i < 4) ∨ (4 ≤ i ∧ i < 8) ∨ 8 ≤ i := by omega
  case inl => simp
  case inr.inl => simp [show i ≠ 0 by omega, show i - 1 < 3 by omega, hlow]
  case inr.inr.inl =>
    simp [show i ≠ 0 by omega, show ¬ i - 1 < 3 by omega, show i - 1 - 3 = i - 4 by omega, herr, htop]
  case inr.inr.inr =>
    simp [show i ≠ 0 by omega, show ¬ i - 1 < 3 by omega, show ¬ i < 8 by omega,
      BitVec.getLsbD_of_ge e.err (i - 1 - 3) (by omega)]

/-! ### The step on the signals of the port -/

/-- A step on pending signals is the port's step with them taken off the list (R59). -/
theorem step_of_pending_port {s : State} {p : PortSignals} {rest : List HostAction} (h : s.pending = .port p :: rest) :
    step s = portStep p { s with pending := rest } := by
  rw [← step_port s p rest, ← h]

/-- Without reset an offered transaction is its decoded instruction (R52, R236). -/
theorem portStep_of_req {p : PortSignals} (hr : p.rst = false) (hq : p.req = true) (s : State) :
    portStep p s = exec (decodePort p.word) s := by
  simp [portStep, hr, hq]

/-- Without reset and without a transaction nothing happens (R52). -/
theorem portStep_of_no_req {p : PortSignals} (hr : p.rst = false) (hq : p.req = false) (s : State) :
    portStep p s = .next s.idle := by
  simp [portStep, hr, hq]

/-- A step with nothing pending is idle (R232). -/
theorem step_of_pending_nil {s : State} (h : s.pending = []) : step s = .next s.idle := by
  simp [step, stepAt, h]

/-! ### The statements about the whole machine -/

/-- Settles O26: a step leaves the engine alone or drives it by the first action's signals, which keep STATUS legal. -/
theorem stepKeepsStatusLegal : Obligations.StepKeepsStatusLegal := by
  intro s s' hlegal h
  obtain hsame | ⟨a, rest, p, -, -, hdrive⟩ := step_engine h
  · rwa [hsame]
  · rw [hdrive]
    exact hlegal.drive p

/-- Settles O11: the value is `PortRead` of index 5, the STATUS word, bit by bit. -/
theorem statusReadLayout : Obligations.StatusReadLayout := fun s d =>
  ⟨s.engine.statusWord, exec_rd 5 d s, fun _ => s.engine.getLsbD_statusWord⟩

/-- Settles O8: the pending signals are the port's step, which runs the offered transaction or nothing. -/
theorem stepRunsTheDecodedInstruction : Obligations.StepRunsTheDecodedInstruction := by
  refine ⟨fun s p rest hpend hr hq => ?offered, fun s p rest hpend hr hq => ?notOffered, fun s hpend => ?nothing⟩
  case offered => exact (step_of_pending_port hpend).trans (portStep_of_req hr hq _)
  case notOffered => exact (step_of_pending_port hpend).trans (portStep_of_no_req hr hq _)
  case nothing => rw [step_of_pending_nil hpend, State.idle, hpend]

/-- Settles O13: each instruction is the write of its index, 0, 1 or 2, in the decoder's table. -/
theorem operandWritesComplete : Obligations.OperandWritesComplete := fun s v =>
  ⟨exec_decodeWrite 0 v s, exec_decodeWrite 1 v s, exec_decodeWrite 2 v s⟩

/-- Settles O25: the reset state's engine is the reset engine. -/
theorem statusLegalAtReset : Obligations.StatusLegalAtReset := Engine.statusLegal_reset

end Sys2Proof.Machine
